-- ==== Sys2Proof/Word.lean ====
section
/-! DEFINITION. The bit-vector types of the ports (R43, R44, R46) and nothing else. -/

namespace Sys2Proof

/-- A command word, `cmd[71:0]` (R44). -/
abbrev CommandWord := BitVec 72

/-- A response word, `rsp[71:0]` (R46). -/
abbrev ResponseWord := BitVec 72

/-- The payload of a command word, `cmd[63:0]` (R44). -/
abbrev Payload := BitVec 64

/-- The data field of a response word, `rsp[63:0]` (R46). -/
abbrev Data := BitVec 64

end Sys2Proof
end

