-- ==== Sys2Proof/Config.lean ====
section
/-! DEFINITION. What an instance of the hardware fixes and the spec leaves open: the number system
`Num` (R8, OPEN by D11) and the free values (R18 to R22, U4, U5). The free things are `opaque` constants
without a body: no proof can see what they are, so a claim about them holds whatever they are. -/

namespace Sys2Proof

/-- The arithmetic fields of the record `Num` (R8). All the units are defined over any such record, so
that the reference instance `Exact` (R9) and the machine's instance run the same definitions. -/
structure Arith (R : Type) where
  /-- LDC's imaginary parts, the accumulator's start, the empty band. -/
  zero : R
  add : R → R → R
  sub : R → R → R
  mul : R → R → R
  /-- Division by a bin count; used for counts `1, 2, …` only. -/
  divn : R → Nat → R
  /-- The complex modulus of `(a, b)`. -/
  mag : R → R → R
  /-- `hann i n`: entry `i` of the window ROM of size `n`; used for `2 ≤ n`, `i < n` only. -/
  hann : Nat → Nat → R
  /-- `twre k n`: real part of twiddle `k` of size `n`; used for `2 ≤ n`, `k < n/2` only. -/
  twre : Nat → Nat → R
  /-- `twim k n`: imaginary part of twiddle `k` of size `n`. -/
  twim : Nat → Nat → R
deriving Inhabited

/-- The whole record `Num` of R8 for a `W`-bit encoding. `mem` is the set `R`; every operation that R8 types
as yielding an element of `R` does so, and decoding the encoding of an element gives it back. -/
structure NumSys (R : Type) (W : Nat) extends Arith R where
  mem : R → Prop
  enc : R → BitVec W
  /-- Total: every `W`-bit pattern is some sample (R8, R52). -/
  dec : BitVec W → R
  dec_enc : ∀ v, mem v → dec (enc v) = v
  dec_mem : ∀ b, mem (dec b)
  zero_mem : mem zero
  add_mem : ∀ a b, mem (add a b)
  sub_mem : ∀ a b, mem (sub a b)
  mul_mem : ∀ a b, mem (mul a b)
  divn_mem : ∀ a c, mem (divn a c)
  mag_mem : ∀ a b, mem (mag a b)
  hann_mem : ∀ i n, mem (hann i n)
  twre_mem : ∀ k n, mem (twre k n)
  twim_mem : ∀ k n, mem (twim k n)

/-! ### The machine's number systems

`Num` with its width `W` is an OPEN argument of the model (R6, R8, D11): there is one for every `W`, and which one is left
open. By R8's law `enc` is injective, so a value may be known by its encoding (log 1): the set `R` is a set of `W`-bit
patterns, `enc` reads the pattern, and `dec` maps every pattern to one of the set. Which set, which map and what the
arithmetic does are open. -/

/-- A value of the machine: the pattern that encodes it, `zext_64(enc v)`. -/
structure NumR where
  bits : BitVec 64
deriving DecidableEq, Repr, Inhabited

/-- The low `W` bits of a pattern. -/
def lowBits (W : Nat) (b : BitVec 64) : BitVec 64 := (b.setWidth W).setWidth 64

/-- What `enc(dec b)` is: open. -/
opaque Config.reencode : Nat → BitVec 64 → BitVec 64

/-- `enc(dec b)` for a `W`-bit pattern, as `reencode` has it. -/
def Config.recode (W : Nat) (b : BitVec 64) : BitVec 64 := lowBits W (Config.reencode W b)

/-- `enc(dec b)` on the low `W` bits of `b`. The test makes it idempotent, as R8's law forces; it leaves a
`recode` that is idempotent as it is. -/
def Config.canon (W : Nat) (b : BitVec 64) : BitVec 64 :=
  let c := Config.recode W (lowBits W b)
  if Config.recode W c = c then c else lowBits W b

/-- The value that a pattern means: `Num.dec`. -/
def Config.value (W : Nat) (b : BitVec 64) : NumR := ⟨Config.canon W b⟩

/-- The arithmetic on encodings: open. -/
opaque Config.arithBits : Nat → Arith (BitVec 64)

/-- An arithmetic on patterns, read as one on the values they encode. -/
def Arith.onValues (W : Nat) (K : Arith (BitVec 64)) : Arith NumR :=
  { zero := Config.value W K.zero
    add := fun a b => Config.value W (K.add a.bits b.bits)
    sub := fun a b => Config.value W (K.sub a.bits b.bits)
    mul := fun a b => Config.value W (K.mul a.bits b.bits)
    divn := fun a c => Config.value W (K.divn a.bits c)
    mag := fun a b => Config.value W (K.mag a.bits b.bits)
    hann := fun i n => Config.value W (K.hann i n)
    twre := fun k n => Config.value W (K.twre k n)
    twim := fun k n => Config.value W (K.twim k n) }

theorem lowBits_lowBits (W : Nat) (b : BitVec 64) : lowBits W (lowBits W b) = lowBits W b := by
  apply BitVec.eq_of_getLsbD_eq
  intro i hi
  by_cases h : i < W <;> simp [lowBits, h, hi]

theorem Config.lowBits_canon (W : Nat) (b : BitVec 64) : lowBits W (Config.canon W b) = Config.canon W b := by
  unfold Config.canon
  by_cases h : Config.recode W (Config.recode W (lowBits W b)) = Config.recode W (lowBits W b)
  · simp only [h, if_true]
    exact lowBits_lowBits W _
  · simp only [h, if_false]
    exact lowBits_lowBits W _

theorem Config.canon_canon (W : Nat) (b : BitVec 64) :
    Config.canon W (Config.canon W b) = Config.canon W b := by
  rw [Config.canon, Config.lowBits_canon]
  unfold Config.canon
  by_cases h : Config.recode W (Config.recode W (lowBits W b)) = Config.recode W (lowBits W b)
  · simp [h]
  · simp [h]

theorem Config.canon_lowBits (W : Nat) (b : BitVec 64) : Config.canon W (lowBits W b) = Config.canon W b := by
  unfold Config.canon
  rw [lowBits_lowBits]

/-- The machine's number system for `W`-bit encodings: any record of R8, up to the names of its values
(log 1). -/
def Config.num (W : Nat) : NumSys NumR W :=
  { (Config.arithBits W).onValues W with
    mem := fun v => Config.canon W v.bits = v.bits
    enc := fun v => v.bits.setWidth W
    dec := fun b => Config.value W (b.setWidth 64)
    dec_enc := fun v h => congrArg NumR.mk ((Config.canon_lowBits W v.bits).trans h)
    dec_mem := fun _ => Config.canon_canon W _
    zero_mem := Config.canon_canon W _
    add_mem := fun _ _ => Config.canon_canon W _
    sub_mem := fun _ _ => Config.canon_canon W _
    mul_mem := fun _ _ => Config.canon_canon W _
    divn_mem := fun _ _ => Config.canon_canon W _
    mag_mem := fun _ _ => Config.canon_canon W _
    hann_mem := fun _ _ => Config.canon_canon W _
    twre_mem := fun _ _ => Config.canon_canon W _
    twim_mem := fun _ _ => Config.canon_canon W _ }

/-- A complex value: a pair `(re, im)` (R58). -/
structure Cplx (R : Type) where
  re : R
  im : R
deriving DecidableEq, Repr

/-- The parts of the buffers whose contents are unspecified until a command writes them (R31, U5). -/
inductive BufferPart where
  | fb | xbRe | xbIm | mb
deriving DecidableEq, Repr

/-- Everything the units take from the instance: its arithmetic and its free values. -/
structure Env (R : Type) where
  num : Arith R
  /-- The `k`-th draw for a stale energy (R22, R79, U4). -/
  draw : Nat → R
  /-- What entry `i` of a buffer reads as before any command has written it (R31, U5). -/
  unwritten : BufferPart → Nat → R

/-- The draws of the machine, as patterns: free values (log 6). -/
opaque Config.drawBits : Nat → Nat → BitVec 64

/-- The `k`-th draw: any element of `R` (R22). -/
def Config.draw (W k : Nat) : NumR := Config.value W (Config.drawBits W k)

/-- The unwritten buffer entries of the machine, as patterns: free values (log 7). -/
opaque Config.unwrittenBits : Nat → BufferPart → Nat → BitVec 64

/-- What an unwritten entry reads as (R31). -/
def Config.unwritten (W : Nat) (part : BufferPart) (i : Nat) : NumR :=
  Config.value W (Config.unwrittenBits W part i)

/-- The machine's instance for `W`-bit encodings. -/
def Config.env (W : Nat) : Env NumR :=
  { num := (Config.num W).toArith, draw := Config.draw W, unwritten := Config.unwritten W }

end Sys2Proof
end

