-- ==== Sys2Proof/Syntax.lean ====
section
/-! DEFINITION. The 22 commands of R47 with their operands as R45 assembles them. -/

namespace Sys2Proof

/-- One constructor per row of the opcode table (R47). A stage or index operand is `uint` of its field, a
frequency is `sint` of its field (R45); `WellFormed.lean` says which numbers a field can hold. -/
inductive Instr where
  /-- FEED (R52); the operand is `payload[W-1:0]`, extended with the zeros above it. -/
  | feed (sbits : Payload)
  /-- PROC (R79). -/
  | proc
  /-- XFRM (R53). -/
  | xfrm
  /-- WIN (R57). -/
  | win
  /-- LDC (R65). -/
  | ldc
  /-- BREV (R66). -/
  | brev
  /-- STG s (R67). -/
  | stg (stage : Nat)
  /-- FFT (R68). -/
  | fft
  /-- MAG (R71). -/
  | mag
  /-- BAND minHz, maxHz (R76). -/
  | band (minHz maxHz : Int)
  /-- BANDS (R77). -/
  | bands
  /-- RDCFG idx (R84). -/
  | rdcfg (idx : Nat)
  /-- RDSTAT (R85). -/
  | rdstat
  /-- RDQLEN (R86). -/
  | rdqlen
  /-- RDRES idx (R87). -/
  | rdres (idx : Nat)
  /-- RDFB idx (R88). -/
  | rdfb (idx : Nat)
  /-- RDXR idx (R89). -/
  | rdxr (idx : Nat)
  /-- RDXI idx (R90). -/
  | rdxi (idx : Nat)
  /-- RDMB idx (R91). -/
  | rdmb (idx : Nat)
  /-- RDWIN idx (R92). -/
  | rdwin (idx : Nat)
  /-- RDTWR idx (R93). -/
  | rdtwr (idx : Nat)
  /-- RDTWI idx (R94). -/
  | rdtwi (idx : Nat)
deriving DecidableEq, Repr

/-- The mnemonic column of R47. -/
def Instr.mnemonic : Instr → String
  | .feed _ => "FEED"
  | .proc => "PROC"
  | .xfrm => "XFRM"
  | .win => "WIN"
  | .ldc => "LDC"
  | .brev => "BREV"
  | .stg _ => "STG"
  | .fft => "FFT"
  | .mag => "MAG"
  | .band _ _ => "BAND"
  | .bands => "BANDS"
  | .rdcfg _ => "RDCFG"
  | .rdstat => "RDSTAT"
  | .rdqlen => "RDQLEN"
  | .rdres _ => "RDRES"
  | .rdfb _ => "RDFB"
  | .rdxr _ => "RDXR"
  | .rdxi _ => "RDXI"
  | .rdmb _ => "RDMB"
  | .rdwin _ => "RDWIN"
  | .rdtwr _ => "RDTWR"
  | .rdtwi _ => "RDTWI"

end Sys2Proof
end

