-- ==== Sys2Proof/WellFormed.lean ====
section
/-! DEFINITION. Which operands a command word can hold (R45). An instruction is well formed iff some
command word spells it; a well-formed operand may still be outside its legal values, which is a
matter of the machine (OPERR, R99), not of the syntax. -/

namespace Sys2Proof

/-- A stage operand fits `payload[7:0]` (format G). -/
def stageFits (stage : Nat) : Bool := decide (stage < 2 ^ 8)

/-- An index operand fits `payload[31:0]` (format R). -/
def indexFits (idx : Nat) : Bool := decide (idx < 2 ^ 32)

/-- A frequency operand is a 32-bit two's-complement integer (format B). -/
def hzFits (hz : Int) : Bool := decide (-(2 ^ 31 : Int) ≤ hz) && decide (hz < 2 ^ 31)

/-- A sample fits `payload[W-1:0]` (format S). -/
def sampleFits (W : Nat) (sbits : Payload) : Bool := decide (sbits.toNat < 2 ^ W)

/-- The operands fit their fields (R45), on an instance with `W`-bit samples. -/
def Instr.wellFormedFor (W : Nat) : Instr → Bool
  | .feed sbits => sampleFits W sbits
  | .proc => true
  | .xfrm => true
  | .win => true
  | .ldc => true
  | .brev => true
  | .stg stage => stageFits stage
  | .fft => true
  | .mag => true
  | .band minHz maxHz => hzFits minHz && hzFits maxHz
  | .bands => true
  | .rdcfg idx => indexFits idx
  | .rdstat => true
  | .rdqlen => true
  | .rdres idx => indexFits idx
  | .rdfb idx => indexFits idx
  | .rdxr idx => indexFits idx
  | .rdxi idx => indexFits idx
  | .rdmb idx => indexFits idx
  | .rdwin idx => indexFits idx
  | .rdtwr idx => indexFits idx
  | .rdtwi idx => indexFits idx

end Sys2Proof
end

