-- ==== Sys2Proof/Decode.lean ====
section
/-! DEFINITION. The opcode table (R47), the decoder (R44, R45, R48), total on every 72-bit word, and
the encoder, written from the same formats. -/

namespace Sys2Proof

/-- Why a word is illegal (R48, R97); both raise `ILLCMD`. -/
inductive DecodeError where
  /-- The opcode is not assigned. -/
  | reservedOpcode
  /-- The opcode is assigned and a must-be-0 payload bit is 1. -/
  | mustBeZero
deriving DecidableEq, Repr

/-- A row of the table of R47: a word `w` spells the command iff `(w AND mask) = pattern`. -/
structure OpcodeRow where
  mnemonic : String
  pattern : CommandWord
  mask : CommandWord
deriving DecidableEq, Repr

/-- The mask of format Z: every bit is fixed. -/
def maskZ : CommandWord := 0xFFFFFFFFFFFFFFFFFF#72
/-- The mask of format S: the opcode and `payload[63:W]` are fixed (R47). -/
def maskS (W : Nat) : CommandWord := 0xFF#8 ++ (BitVec.allOnes 64 <<< W)
/-- The mask of format G. -/
def maskG : CommandWord := 0xFFFFFFFFFFFFFFFF00#72
/-- The mask of format B: only the opcode is fixed. -/
def maskB : CommandWord := 0xFF0000000000000000#72
/-- The mask of format R. -/
def maskR : CommandWord := 0xFFFFFFFFFF00000000#72

/-- The rows of R47 that are the same for every `W`, in the table's order. -/
def fixedRows : List OpcodeRow :=
  [ ⟨"PROC", 0x020000000000000000#72, maskZ⟩,
    ⟨"XFRM", 0x100000000000000000#72, maskZ⟩,
    ⟨"WIN", 0x110000000000000000#72, maskZ⟩,
    ⟨"LDC", 0x120000000000000000#72, maskZ⟩,
    ⟨"BREV", 0x130000000000000000#72, maskZ⟩,
    ⟨"STG", 0x140000000000000000#72, maskG⟩,
    ⟨"FFT", 0x150000000000000000#72, maskZ⟩,
    ⟨"MAG", 0x160000000000000000#72, maskZ⟩,
    ⟨"BAND", 0x170000000000000000#72, maskB⟩,
    ⟨"BANDS", 0x180000000000000000#72, maskZ⟩ ] ++
  [ ⟨"RDCFG", 0x200000000000000000#72, maskR⟩,
    ⟨"RDSTAT", 0x210000000000000000#72, maskZ⟩,
    ⟨"RDQLEN", 0x220000000000000000#72, maskZ⟩,
    ⟨"RDRES", 0x230000000000000000#72, maskR⟩,
    ⟨"RDFB", 0x240000000000000000#72, maskR⟩,
    ⟨"RDXR", 0x250000000000000000#72, maskR⟩,
    ⟨"RDXI", 0x260000000000000000#72, maskR⟩,
    ⟨"RDMB", 0x270000000000000000#72, maskR⟩,
    ⟨"RDWIN", 0x280000000000000000#72, maskR⟩,
    ⟨"RDTWR", 0x290000000000000000#72, maskR⟩,
    ⟨"RDTWI", 0x2A0000000000000000#72, maskR⟩ ]

/-- The 22 rows of R47, in the table's order, for `W`-bit samples. -/
def opcodeTableFor (W : Nat) : List OpcodeRow := ⟨"FEED", 0x010000000000000000#72, maskS W⟩ :: fixedRows

/-- `w` spells the row's command (R47). -/
def OpcodeRow.spells (r : OpcodeRow) (w : CommandWord) : Bool := w &&& r.mask == r.pattern

/-- `op = cmd[71:64]` (R44). -/
def opField (w : CommandWord) : BitVec 8 := w.extractLsb' 64 8

/-- `payload = cmd[63:0]` (R44). -/
def payloadField (w : CommandWord) : Payload := w.extractLsb' 0 64

/-- `payload[k-1:0]` is the operand and `payload[63:k]` must be 0 (formats Z, S, G, R of R45, with
`k = 0, W, 8, 32`). -/
def lowOperand (k : Nat) (p : Payload) (build : BitVec k → Instr) : Except DecodeError Instr :=
  if p >>> k = 0#64 then .ok (build (p.setWidth k)) else .error .mustBeZero

/-- Format Z: no operand, the whole payload must be 0. -/
def formatZ (p : Payload) (i : Instr) : Except DecodeError Instr := lowOperand 0 p fun _ => i

/-- Format S: the sample's bits `payload[W-1:0]`. -/
def formatS (W : Nat) (p : Payload) (build : Payload → Instr) : Except DecodeError Instr :=
  lowOperand W p fun sbits => build (sbits.setWidth 64)

/-- Format G: the stage number `uint(payload[7:0])`. -/
def formatG (p : Payload) (build : Nat → Instr) : Except DecodeError Instr :=
  lowOperand 8 p fun s => build s.toNat

/-- Format R: the index `uint(payload[31:0])`. -/
def formatR (p : Payload) (build : Nat → Instr) : Except DecodeError Instr :=
  lowOperand 32 p fun idx => build idx.toNat

/-- Format B: `minHz = sint(payload[31:0])`, `maxHz = sint(payload[63:32])`; nothing must be 0. -/
def formatB (p : Payload) (build : Int → Int → Instr) : Except DecodeError Instr :=
  .ok (build (p.extractLsb' 0 32).toInt (p.extractLsb' 32 32).toInt)

/-- The command a word spells on an instance with `W`-bit samples, or why it is illegal (R47, R48). -/
def decodeFor (W : Nat) (w : CommandWord) : Except DecodeError Instr :=
  let p := payloadField w
  match (opField w).toNat with
  | 0x01 => formatS W p .feed
  | 0x02 => formatZ p .proc
  | 0x10 => formatZ p .xfrm
  | 0x11 => formatZ p .win
  | 0x12 => formatZ p .ldc
  | 0x13 => formatZ p .brev
  | 0x14 => formatG p .stg
  | 0x15 => formatZ p .fft
  | 0x16 => formatZ p .mag
  | 0x17 => formatB p .band
  | 0x18 => formatZ p .bands
  | 0x20 => formatR p .rdcfg
  | 0x21 => formatZ p .rdstat
  | 0x22 => formatZ p .rdqlen
  | 0x23 => formatR p .rdres
  | 0x24 => formatR p .rdfb
  | 0x25 => formatR p .rdxr
  | 0x26 => formatR p .rdxi
  | 0x27 => formatR p .rdmb
  | 0x28 => formatR p .rdwin
  | 0x29 => formatR p .rdtwr
  | 0x2A => formatR p .rdtwi
  | _ => .error .reservedOpcode

/-- A word from its two fields (R44). -/
def commandWord (op : BitVec 8) (p : Payload) : CommandWord := op ++ p

/-- An index payload (format R). -/
def indexPayload (idx : Nat) : Payload := (BitVec.ofNat 32 idx).setWidth 64

/-- The word that spells a well-formed instruction (R44, R45, R47). -/
def encode : Instr → CommandWord
  | .feed sbits => commandWord 0x01#8 sbits
  | .proc => commandWord 0x02#8 0#64
  | .xfrm => commandWord 0x10#8 0#64
  | .win => commandWord 0x11#8 0#64
  | .ldc => commandWord 0x12#8 0#64
  | .brev => commandWord 0x13#8 0#64
  | .stg stage => commandWord 0x14#8 ((BitVec.ofNat 8 stage).setWidth 64)
  | .fft => commandWord 0x15#8 0#64
  | .mag => commandWord 0x16#8 0#64
  | .band minHz maxHz => commandWord 0x17#8 (BitVec.ofInt 32 maxHz ++ BitVec.ofInt 32 minHz)
  | .bands => commandWord 0x18#8 0#64
  | .rdcfg idx => commandWord 0x20#8 (indexPayload idx)
  | .rdstat => commandWord 0x21#8 0#64
  | .rdqlen => commandWord 0x22#8 0#64
  | .rdres idx => commandWord 0x23#8 (indexPayload idx)
  | .rdfb idx => commandWord 0x24#8 (indexPayload idx)
  | .rdxr idx => commandWord 0x25#8 (indexPayload idx)
  | .rdxi idx => commandWord 0x26#8 (indexPayload idx)
  | .rdmb idx => commandWord 0x27#8 (indexPayload idx)
  | .rdwin idx => commandWord 0x28#8 (indexPayload idx)
  | .rdtwr idx => commandWord 0x29#8 (indexPayload idx)
  | .rdtwi idx => commandWord 0x2A#8 (indexPayload idx)

/-- The command word of a table word: a row of the table has 72 bits, all of them in one word (R44),
and the bits above `nbits` are 0. -/
def tableWord (nbits w : Nat) : CommandWord := BitVec.ofNat 72 (w % 2 ^ nbits)

/-- The `W` for which `opcode_table.json` writes FEED's row (R47). -/
def tableW : Nat := 32

/-- What the decoder reads from a word numbered as `opcode_table.json` numbers it. -/
def decodeTableWord (nbits w : Nat) : Option Instr := (decodeFor tableW (tableWord nbits w)).toOption

end Sys2Proof
end

