-- ==== Sys2Proof/Machine/Datapath.lean ====
section
/-! DEFINITION. The units as functions of their operands alone, over any number system (R8): window
multiplier, complex multiplier, butterfly, stage, magnitude unit, bin mapper and band-energy accumulator. A buffer is
seen here as the function that reads its entries. -/

namespace Sys2Proof.Machine

variable {R : Type}

/-- The list of `f 0, …, f (n-1)`: "for all i in [0, n)" all entries written at once (R11). -/
def tabulate {α : Type} (n : Nat) (f : Nat → α) : List α := (List.range n).map f

/-- Entry `i` of the window multiplier: sample first, coefficient second (R57). -/
def windowAt (K : Arith R) (n : Nat) (x : Nat → R) (i : Nat) : R := K.mul (x i) (K.hann i n)

/-- Complex addition (R58). -/
def cadd (K : Arith R) (x y : Cplx R) : Cplx R := ⟨K.add x.re y.re, K.add x.im y.im⟩

/-- Complex subtraction (R58). -/
def csub (K : Arith R) (x y : Cplx R) : Cplx R := ⟨K.sub x.re y.re, K.sub x.im y.im⟩

/-- The complex (twiddle) multiplier, twiddle `w` first (R58). -/
def cmul (K : Arith R) (w v : Cplx R) : Cplx R :=
  ⟨K.sub (K.mul w.re v.re) (K.mul w.im v.im), K.add (K.mul w.re v.im) (K.mul w.im v.re)⟩

/-- The twiddle factor `k` of size `n`; for `n = N` it is entry `k` of `TROM` (R59). -/
def twiddle (K : Arith R) (k n : Nat) : Cplx R := ⟨K.twre k n, K.twim k n⟩

/-- The radix-2 butterfly `BF(u, v, w)` (R64). -/
def butterfly (K : Arith R) (u v w : Cplx R) : Cplx R × Cplx R :=
  (cadd K u (cmul K w v), csub K u (cmul K w v))

/-- `rev_L(i)`: the `L` low bits of `i` in reverse order (R66). -/
def rev : Nat → Nat → Nat
  | 0, _ => 0
  | l + 1, i => (i % 2) * 2 ^ l + rev l (i / 2)

/-- The ROM address of the butterfly with offset `j` of stage `s` (R60). -/
def twiddleAddr (l s j : Nat) : Nat := j <<< (l - s)

/-- Entry `i` after stage `s` on the entries `x` (R67). With `m = 2^s`, `h = m/2`: entry `i` lies in
the block `b = i - i % m`; at an offset `j < h` it is the first output of the butterfly of the pair `(i, i + h)`, at an
offset `j + h` the second output of the butterfly of the pair `(i - h, i)`. -/
def stageAt (K : Arith R) (l s : Nat) (x : Nat → Cplx R) (i : Nat) : Cplx R :=
  let h := 2 ^ s / 2
  let j := i % 2 ^ s
  if j < h then
    (butterfly K (x i) (x (i + h)) (twiddle K (twiddleAddr l s j) (2 ^ l))).1
  else
    (butterfly K (x (i - h)) (x i) (twiddle K (twiddleAddr l s (j - h)) (2 ^ l))).2

/-- The entries after BREV and stages `1 .. s` (R66, R67). -/
def stagesUpTo (K : Arith R) (l : Nat) (x : Nat → Cplx R) : Nat → Nat → Cplx R
  | 0 => fun i => x (rev l i)
  | s + 1 => stageAt K l (s + 1) (stagesUpTo K l x s)

/-- The magnitude unit on entry `i` (R70, R71). -/
def magnitudeAt (K : Arith R) (x : Nat → Cplx R) (i : Nat) : R := K.mag (x i).re (x i).im

/-- `binIndex(f) = fdiv(f · N, FS)`, exact over the integers, rounding toward −∞ (R72). -/
def binIndex (fs l : Nat) (f : Int) : Int := Int.fdiv (f * 2 ^ l) fs

/-- The first bin of a band: clamped from below only (R73). -/
def binStart (fs l : Nat) (lo : Int) : Int := max (binIndex fs l lo) 0

/-- The last bin of a band: clamped from above only, to `N/2 - 1` (R73). -/
def binEnd (fs l : Nat) (hi : Int) : Int := min (binIndex fs l hi) (2 ^ l / 2 - 1)

/-- The accumulator over `count` bins from `first`, ascending, from `zero` (R73). -/
def bandSum (K : Arith R) (mb : Nat → R) (first count : Nat) : R :=
  (List.range count).foldl (fun acc k => K.add acc (mb (first + k))) K.zero

/-- `bandE(lo, hi)` on the magnitudes `mb` (R73). -/
def bandE (K : Arith R) (fs l : Nat) (mb : Nat → R) (lo hi : Int) : R :=
  let bs := binStart fs l lo
  let be := binEnd fs l hi
  if be < bs then K.zero
  else K.divn (bandSum K mb bs.toNat (be - bs + 1).toNat) (be - bs + 1).toNat

end Sys2Proof.Machine
end

