-- ==== Sys2Proof/Machine/State.lean ====
section
/-! DEFINITION. The state of AMTE-CORE (R13 to R31) as plain data, the reasons a step could stop, and
the state after reset. `Block R` is the spec's own state over any carrier `R` of the number system; `State` is
the machine's block (carrier `NumR`) with the host's two streams. -/

namespace Sys2Proof.Machine

/-- The phase register `PH` (R23). -/
inductive Phase where
  | idle | frame | windowed | loaded | stages | mags
deriving DecidableEq, Repr

/-- The status codes of a response (R46, R96). -/
inductive Status where
  | ok | notready | illcmd | operr | seqerr | cfgerr | qfull
deriving DecidableEq, Repr

/-- The result registers `RES` (R22). -/
structure Res (R : Type) where
  bass : R
  mid : R
  treble : R
  /-- `RES.NEW`, the freshness flag `hasNewData`. -/
  new : Bool
deriving DecidableEq, Repr

/-- The four sticky flags `ERR` (R24). -/
structure Err where
  ill : Bool
  op : Bool
  seq : Bool
  qovf : Bool
deriving DecidableEq, Repr

/-- The configuration registers that latch the straps at reset (R25). `CFG.N` is derived. -/
structure Cfg where
  fs : BitVec 32
  l : BitVec 5
deriving DecidableEq, Repr

/-- The instance parameters that decide what a command does (R6). Nothing writes them; they stand in
the state so that a claim about every state is a claim about every instance (log 4). -/
structure Params where
  /-- `W`, the width of an encoded `Num` value; its legal values are `1 .. 64` (`Block.parLegal`). -/
  w : Nat
  /-- `LMAX`, the largest supported `L`; its legal values are `1 .. 31` (`Block.parLegal`). -/
  lmax : Nat
  /-- `QCAP`; `none` is the normative `∞`; its legal values are `>= N` (`Block.parLegal`). -/
  qcap : Option Nat
deriving DecidableEq, Repr

/-- The block's state: the tuple of R13, the strap registers of R25, the instance parameters of R6 and
the counter of the draws (log 6). -/
structure Block (R : Type) where
  /-- The sample queue, oldest sample first (R17). -/
  q : List R
  /-- The frame buffer: no entry before the first write, else all `N` (R18, log 7). -/
  fb : List R
  /-- The complex spectrum buffer: no entry or all `N` (R19, log 7). -/
  xb : List (Cplx R)
  /-- The magnitude buffer: no entry or all `N/2` (R20, log 7). -/
  mb : List R
  res : Res R
  ph : Phase
  /-- The stage count (R23). -/
  sc : BitVec 5
  err : Err
  cfg : Cfg
  par : Params
  /-- How many draws have been taken (log 6): the model's own field. -/
  draws : Nat
deriving DecidableEq, Repr

/-- What the host does to the ports next (R43, R107). -/
inductive HostEvent where
  /-- A command word is accepted. -/
  | command (w : CommandWord)
  /-- A reset pulse with the straps `cfg_fs` and `cfg_log2n`. -/
  | reset (cfgFs : BitVec 32) (cfgLog2n : BitVec 5)
deriving DecidableEq, Repr

/-- The machine's state: the block, what the host still has to present (next first) and the response
words delivered so far (oldest first) (R43, log 8). -/
structure State extends Block NumR where
  input : List HostEvent
  output : List ResponseWord
deriving DecidableEq, Repr

/-- Why a step could stop with a fault. There is no reason: no command traps, stops, locks or resets
the block, and every error is a response (R95, R104); so the type has no constructor (log 12). -/
inductive Fault where
deriving DecidableEq, Repr

/-- Why a step could be refused. -/
inductive Refusal where
  /-- Raised by an arm of `exec` whose instruction has no meaning yet; safe. No arm raises it. -/
  | notModelled (mnemonic : String)
deriving DecidableEq, Repr

/-- The machine right after power-on reset (R31, R107): the straps 44100 and 11 (log 5), `W = 32`,
`LMAX = 31`, `QCAP = ∞`, the three energies the first three draws (log 6), no buffer written (log 7), no host event waiting and no
response given (log 8). Reset with any other straps is `Block.reset`. -/
def State.reset : State :=
  { q := [], fb := [], xb := [], mb := [],
    res := { bass := Config.draw 32 0, mid := Config.draw 32 1, treble := Config.draw 32 2, new := false },
    ph := .idle, sc := 0#5,
    err := { ill := false, op := false, seq := false, qovf := false },
    cfg := { fs := 44100#32, l := 11#5 },
    par := { w := 32, lmax := 31, qcap := none },
    draws := 3,
    input := [], output := [] }

end Sys2Proof.Machine
end

