-- ==== Sys2Proof/Machine/Ops.lean ====
section
/-! DEFINITION. The named operations over the state: reading and writing entries, raising a status
(R95: the one way an error is taken; there is no trap and no return, R104), answering, and reset (R107). -/

namespace Sys2Proof.Machine

variable {R : Type}

/-! ### Configuration -/

/-- `L`, the latched `CFG.L` as a number (R25). -/
def Block.logN (b : Block R) : Nat := b.cfg.l.toNat

/-- `N = 2^L` (R6, R25). -/
def Block.n (b : Block R) : Nat := 2 ^ b.logN

/-- `FS`, the latched `CFG.FS` as a number (R25). -/
def Block.fs (b : Block R) : Nat := b.cfg.fs.toNat

/-- `Num`, for the instance's `W` (R6, R8). -/
def Block.num (b : Block NumR) : NumSys NumR b.par.w := Config.num b.par.w

/-- What the units take from the machine's instance. -/
def Block.env (b : Block NumR) : Env NumR := Config.env b.par.w

/-! ### Reading entries (R27, R28, R33)

An entry that no command has written reads as a free value (log 7). -/

/-- `FB[i]` (R18). -/
def Block.fbAt (E : Env R) (b : Block R) (i : Nat) : R := b.fb.getD i (E.unwritten .fb i)

/-- `XB[i]` (R19). -/
def Block.xbAt (E : Env R) (b : Block R) (i : Nat) : Cplx R :=
  b.xb.getD i ⟨E.unwritten .xbRe i, E.unwritten .xbIm i⟩

/-- `MB[i]` (R20). -/
def Block.mbAt (E : Env R) (b : Block R) (i : Nat) : R := b.mb.getD i (E.unwritten .mb i)

/-- `WROM[i] = Num.hann i N` (R27, R54). -/
def Block.wrom (E : Env R) (b : Block R) (i : Nat) : R := E.num.hann i b.n

/-- `TROM[k] = (Num.twre k N, Num.twim k N)` (R28, R59). -/
def Block.trom (E : Env R) (b : Block R) (k : Nat) : Cplx R := twiddle E.num k b.n

/-! ### Writing (each names all it changes; `Laws/State.lean` has one lemma a field) -/

/-- FEED's append at the tail (R52). -/
def Block.pushSample (v : R) (b : Block R) : Block R := { b with q := b.q ++ [v] }

/-- XFRM's move of the first `N` samples from `Q` to `FB` (R53). -/
def Block.extractFrame (b : Block R) : Block R :=
  { b with fb := b.q.take b.n, q := b.q.drop b.n }

/-- All `N` entries of `FB` at once. -/
def Block.writeFb (f : Nat → R) (b : Block R) : Block R := { b with fb := tabulate b.n f }

/-- All `N` entries of `XB` at once; every value is computed before any is written (R41, R66, R67). -/
def Block.writeXb (f : Nat → Cplx R) (b : Block R) : Block R := { b with xb := tabulate b.n f }

/-- All `N/2` entries of `MB` at once. -/
def Block.writeMb (f : Nat → R) (b : Block R) : Block R := { b with mb := tabulate (b.n / 2) f }

/-- `PH <- ph ; SC <- sc` (R23). -/
def Block.enter (ph : Phase) (sc : BitVec 5) (b : Block R) : Block R := { b with ph := ph, sc := sc }

/-- A fresh result: the three energies and `RES.NEW <- 1` (R77). -/
def Block.writeRes (bass mid treble : R) (b : Block R) : Block R :=
  { b with res := { bass := bass, mid := mid, treble := treble, new := true } }

/-- A stale result: `RES.NEW <- 0` and three fresh draws (R22, R79, U4). -/
def Block.staleRes (E : Env R) (b : Block R) : Block R :=
  { b with
    res := { bass := E.draw b.draws, mid := E.draw (b.draws + 1), treble := E.draw (b.draws + 2),
             new := false },
    draws := b.draws + 3 }

/-- Reset with the straps `fs`, `l` (R31, R107): the parameters stay, the energies are three fresh draws. -/
def Block.reset (E : Env R) (fs : BitVec 32) (l : BitVec 5) (b : Block R) : Block R :=
  { q := [], fb := [], xb := [], mb := [],
    res := { bass := E.draw b.draws, mid := E.draw (b.draws + 1), treble := E.draw (b.draws + 2),
             new := false },
    ph := .idle, sc := 0#5,
    err := { ill := false, op := false, seq := false, qovf := false },
    cfg := { fs := fs, l := l }, par := b.par, draws := b.draws + 3 }

/-! ### Responses (R46) -/

/-- The code of a status, `rsp[67:64]` (R46). -/
def Status.code : Status → BitVec 4
  | .ok => 0#4
  | .notready => 1#4
  | .illcmd => 2#4
  | .operr => 3#4
  | .seqerr => 4#4
  | .cfgerr => 5#4
  | .qfull => 6#4

/-- The data of a response: an integer or a `Num.R` value (R9, R46). -/
inductive Datum (R : Type) where
  | int (k : Nat)
  | num (v : R)
deriving DecidableEq, Repr

/-- A response before it is encoded. -/
structure Reply (R : Type) where
  status : Status
  data : Datum R
deriving DecidableEq, Repr

/-- What a command leaves: the block and its response (R37: exactly one). -/
structure Answer (R : Type) where
  block : Block R
  reply : Reply R
deriving DecidableEq, Repr

/-- `data`: an integer as its unsigned value, a `Num.R` value as `zext_64(Num.enc v)` (R46). -/
def Datum.bits (W : Nat) (d : Datum NumR) : Data :=
  match d with
  | .int k => BitVec.ofNat 64 k
  | .num v => ((Config.num W).enc v).setWidth 64

/-- The response word `0 ++ code ++ data` (R46). -/
def responseWord (status : Status) (data : Data) : ResponseWord := 0#4 ++ status.code ++ data

/-- The response word of a reply, on an instance with `W`-bit values. -/
def Reply.word (W : Nat) (r : Reply NumR) : ResponseWord := responseWord r.status (r.data.bits W)

/-- `respond(OK, data)` (R11). -/
def Block.respond (data : Datum R) (b : Block R) : Answer R := ⟨b, ⟨.ok, data⟩⟩

/-- `respond(NOTREADY, 0)` (R53, R79): not an error, no flag. -/
def Block.notReady (b : Block R) : Answer R := ⟨b, ⟨.notready, .int 0⟩⟩

/-- The sticky flag a status sets, if any (R46, R95). -/
def Err.record (c : Status) (e : Err) : Err :=
  match c with
  | .ok => e
  | .notready => e
  | .illcmd => { e with ill := true }
  | .operr => { e with op := true }
  | .seqerr => { e with seq := true }
  | .cfgerr => e
  | .qfull => { e with qovf := true }

/-- `ERR` after recording a status. -/
def Block.recordErr (c : Status) (b : Block R) : Block R := { b with err := b.err.record c }

/-- `raise c` (R95): nothing changes but the sticky flag of `c`; the response is `(c, 0)`. -/
def Block.raise (c : Status) (b : Block R) : Answer R := ⟨b.recordErr c, ⟨c, .int 0⟩⟩

/-- The checks that come before a command's own work, in the order of R102: configuration, operand,
phase. (`ILLCMD` comes before them, in `step`; `QFULL` and `NOTREADY` after them, in the command.) -/
def firstError (cfgBad opBad seqBad : Bool) : Option Status :=
  if cfgBad then some .cfgerr
  else if opBad then some .operr
  else if seqBad then some .seqerr
  else none

/-- A command behind its checks: it raises the first condition that holds, else does `body` (R95, R102). -/
def Block.guarded (cfgBad opBad seqBad : Bool) (body : Block R → Answer R) (b : Block R) : Answer R :=
  match firstError cfgBad opBad seqBad with
  | some c => b.raise c
  | none => body b

/-! ### The machine around the block -/

/-- A command has run: its block stands and its response word goes out (R37, R43). -/
def State.deliver (a : Answer NumR) (s : State) : Host.Outcome State Fault Refusal :=
  .next { s with toBlock := a.block, output := s.output ++ [a.reply.word s.par.w] }

/-- An illegal word raises `ILLCMD`, before every other check (R48, R97, R102). -/
def State.illegal (s : State) : Host.Outcome State Fault Refusal := s.deliver (s.toBlock.raise .illcmd)

/-- A reset pulse: no response, the streams of the host stay (R107, log 9). -/
def State.hostReset (fs : BitVec 32) (l : BitVec 5) (s : State) : Host.Outcome State Fault Refusal :=
  .next { s with toBlock := s.toBlock.reset s.env fs l }

end Sys2Proof.Machine
end

