-- ==== Sys2Proof/Machine/Operands.lean ====
section
/-! DEFINITION. The legal values of the operands (R45, R99) and the index spaces (R32, R33). -/

namespace Sys2Proof.Machine

variable {R : Type}

/-- FEED's operand: the value `payload[W-1:0]` means, no extension and no scaling (R45). -/
def Block.sampleOf (sbits : Payload) (b : Block NumR) : NumR := b.num.dec (sbits.setWidth b.par.w)

/-- STG's legal stages are `1 .. L` (R45, R67, R99). -/
def Block.stageLegal (stage : Nat) (b : Block R) : Bool :=
  decide (1 ≤ stage) && decide (stage ≤ b.logN)

/-- The eleven index spaces (R32). -/
inductive Space where
  | cfg | status | qlen | res | fb | xbRe | xbIm | mb | wrom | tromRe | tromIm
deriving DecidableEq, Repr

/-- The legal indices of a space; a space without an index takes any (R32). -/
def Block.indexLegal (sp : Space) (i : Nat) (b : Block R) : Bool :=
  match sp with
  | .cfg => decide (i ≤ 2)
  | .status => true
  | .qlen => true
  | .res => decide (i ≤ 3)
  | .fb => decide (i < b.n)
  | .xbRe => decide (i < b.n)
  | .xbIm => decide (i < b.n)
  | .mb => decide (i < b.n / 2)
  | .wrom => decide (i < b.n)
  | .tromRe => decide (i < b.n / 2)
  | .tromIm => decide (i < b.n / 2)

/-- When a space is valid (R21, R32). -/
def Space.validIn (sp : Space) (ph : Phase) : Bool :=
  match sp with
  | .cfg => true
  | .status => true
  | .qlen => true
  | .res => true
  | .fb => decide (ph ≠ .idle)
  | .xbRe => decide (ph = .loaded) || decide (ph = .stages) || decide (ph = .mags)
  | .xbIm => decide (ph = .loaded) || decide (ph = .stages) || decide (ph = .mags)
  | .mb => decide (ph = .mags)
  | .wrom => true
  | .tromRe => true
  | .tromIm => true

/-- RDCFG and RDSTAT skip the `CFGERR` check (R83, R98). -/
def Space.readableUnconfigured : Space → Bool
  | .cfg => true
  | .status => true
  | .qlen => false
  | .res => false
  | .fb => false
  | .xbRe => false
  | .xbIm => false
  | .mb => false
  | .wrom => false
  | .tromRe => false
  | .tromIm => false

end Sys2Proof.Machine
end

