-- ==== Sys2Proof/Machine/Flags.lean ====
section
/-! DEFINITION. The derived flags and the status view (R7, R24, R26, R85), and the entry a space holds
(R32, R33). No command's arithmetic result sets a flag (R24). -/

namespace Sys2Proof.Machine

variable {R : Type}

/-- The configuration is valid iff `1 <= L <= LMAX` and `1 <= FS <= 2^31 - 1` (R7). -/
def Block.cfgValid (b : Block R) : Bool :=
  decide (1 ≤ b.logN) && decide (b.logN ≤ b.par.lmax) && decide (1 ≤ b.fs) && decide (b.fs ≤ 2 ^ 31 - 1)

/-- The derived flag `CFGERR` (R24, R98). -/
def Block.cfgErr (b : Block R) : Bool := !b.cfgValid

/-- The parameters have legal values (R6): `1 <= W <= 64`, `1 <= LMAX <= 31`, `QCAP >= N`. (`L` and `FS` are
`cfgValid`.) -/
def Block.parLegal (b : Block R) : Bool :=
  decide (1 ≤ b.par.w) && decide (b.par.w ≤ 64) && decide (1 ≤ b.par.lmax) && decide (b.par.lmax ≤ 31) && b.par.qcap.all fun c => decide (b.n ≤ c)

/-- A whole frame is queued: `len(Q) >= N` (R24, R53, R79). -/
def Block.frameQueued (b : Block R) : Bool := decide (b.n ≤ b.q.length)

/-- The derived flag `RDY`; it reads 0 when the configuration is invalid (R24, R85). -/
def Block.rdy (b : Block R) : Bool := b.cfgValid && b.frameQueued

/-- `len(Q) = QCAP`; never with `QCAP = ∞` (R52, R101). -/
def Block.queueFull (b : Block R) : Bool :=
  match b.par.qcap with
  | none => false
  | some c => decide (b.q.length = c)

/-- The phase codes (R23). -/
def Phase.code : Phase → BitVec 3
  | .idle => 0#3
  | .frame => 1#3
  | .windowed => 2#3
  | .loaded => 3#3
  | .stages => 4#3
  | .mags => 5#3

/-- A flag at bit `k` of the view. -/
def statusBit (v : Bool) (k : Nat) : Data := (BitVec.ofBool v).setWidth 64 <<< k

/-- The view `STATUS` (R26, R85). -/
def Block.status (b : Block R) : Data :=
  b.ph.code.setWidth 64 ||| (b.sc.setWidth 64 <<< 3) ||| statusBit b.res.new 8 ||| statusBit b.rdy 9 |||
    statusBit b.cfgErr 10 ||| statusBit b.err.ill 11 ||| statusBit b.err.op 12 |||
    statusBit b.err.seq 13 ||| statusBit b.err.qovf 14

/-- Entry `i` of a configuration space: `CFG.FS`, `CFG.N`, `CFG.L` (R25, R84). -/
def Block.cfgEntry (i : Nat) (b : Block R) : Nat :=
  match i with
  | 0 => b.fs
  | 1 => b.n
  | _ => b.logN

/-- Entry `i` of `RES` (R22, R87). -/
def Block.resEntry (i : Nat) (b : Block R) : Datum R :=
  match i with
  | 0 => .num b.res.bass
  | 1 => .num b.res.mid
  | 2 => .num b.res.treble
  | _ => .int b.res.new.toNat

/-- Entry `i` of a space (R32, R33); it is asked only for legal indices of valid spaces. -/
def Block.entry (E : Env R) (sp : Space) (i : Nat) (b : Block R) : Datum R :=
  match sp with
  | .cfg => .int (b.cfgEntry i)
  | .status => .int b.status.toNat
  | .qlen => .int (min b.q.length (2 ^ 64 - 1))
  | .res => b.resEntry i
  | .fb => .num (b.fbAt E i)
  | .xbRe => .num (b.xbAt E i).re
  | .xbIm => .num (b.xbAt E i).im
  | .mb => .num (b.mbAt E i)
  | .wrom => .num (b.wrom E i)
  | .tromRe => .num (b.trom E i).re
  | .tromIm => .num (b.trom E i).im

/-- `MemRead(S, i)`: defined only when `i` is a legal index of `S` and `S` is valid (R33). -/
def Block.memRead (E : Env R) (sp : Space) (i : Nat) (b : Block R) : Option (Datum R) :=
  if b.indexLegal sp i && sp.validIn b.ph then some (b.entry E sp i) else none

/-- The read-back commands (R83): `OPERR` before `SEQERR`, then the entry; nothing is written. -/
def Block.readBack (E : Env R) (sp : Space) (i : Nat) (b : Block R) : Answer R :=
  b.guarded (b.cfgErr && !sp.readableUnconfigured) (!b.indexLegal sp i) (!sp.validIn b.ph)
    fun b => b.respond (b.entry E sp i)

end Sys2Proof.Machine
end

