-- ==== Sys2Proof/Machine/Accumulator.lean ====
section
/-! DEFINITION. The sample accumulator (R51): FEED (R52) and XFRM (R53). -/

namespace Sys2Proof.Machine

variable {R : Type}

/-- FEED of the value `v` (R52): allowed in every phase; a full queue raises `QFULL` and loses the sample. -/
def Block.feed (v : R) (b : Block R) : Answer R :=
  b.guarded b.cfgErr false false fun b =>
    if b.queueFull then b.raise .qfull else (b.pushSample v).respond (.int 0)

/-- The state changes of a successful XFRM (R53). -/
def Block.xfrmEffect (b : Block R) : Block R := b.extractFrame.enter .frame 0#5

/-- XFRM (R53): allowed in every phase; `NOTREADY` changes nothing. -/
def Block.xfrm (b : Block R) : Answer R :=
  b.guarded b.cfgErr false false fun b =>
    if b.frameQueued then b.xfrmEffect.respond (.int 0) else b.notReady

/-- FEED (R52). -/
def execFeed (sbits : Payload) (s : State) : Host.Outcome State Fault Refusal :=
  s.deliver (s.toBlock.feed (s.sampleOf sbits))

/-- XFRM (R53). -/
def execXfrm (s : State) : Host.Outcome State Fault Refusal :=
  s.deliver s.toBlock.xfrm

end Sys2Proof.Machine
end

