-- ==== Sys2Proof/Machine/BandEnergy.lean ====
section
/-! DEFINITION. The band-energy accumulator: BAND (R76) and BANDS (R77). -/

namespace Sys2Proof.Machine

variable {R : Type}

/-- `bandE(lo, hi)` on the block's `MB`, `FS` and `N` (R73). -/
def Block.bandE (E : Env R) (lo hi : Int) (b : Block R) : R :=
  Machine.bandE E.num b.fs b.logN (b.mbAt E) lo hi

/-- `bandE(20, 150)` (R75). -/
def Block.bassBand (E : Env R) (b : Block R) : R := b.bandE E 20 150

/-- `bandE(150, 4000)` (R75). -/
def Block.midBand (E : Env R) (b : Block R) : R := b.bandE E 150 4000

/-- `bandE(4000, 20000)` (R75). -/
def Block.trebleBand (E : Env R) (b : Block R) : R := b.bandE E 4000 20000

/-- The state changes of BANDS (R75, R77). -/
def Block.bandsEffect (E : Env R) (b : Block R) : Block R :=
  b.writeRes (b.bassBand E) (b.midBand E) (b.trebleBand E)

/-- BAND minHz, maxHz (R76): allowed in `MAGS`; no operand raises anything. -/
def Block.band (E : Env R) (minHz maxHz : Int) (b : Block R) : Answer R :=
  b.guarded b.cfgErr false (decide (b.ph ≠ .mags)) fun b => b.respond (.num (b.bandE E minHz maxHz))

/-- BANDS (R77): allowed in `MAGS`. -/
def Block.bands (E : Env R) (b : Block R) : Answer R :=
  b.guarded b.cfgErr false (decide (b.ph ≠ .mags)) fun b => (b.bandsEffect E).respond (.int 0)

/-- BAND minHz, maxHz (R76). -/
def execBand (minHz maxHz : Int) (s : State) : Host.Outcome State Fault Refusal :=
  s.deliver (s.toBlock.band s.env minHz maxHz)

/-- BANDS (R77). -/
def execBands (s : State) : Host.Outcome State Fault Refusal :=
  s.deliver (s.toBlock.bands s.env)

end Sys2Proof.Machine
end

