-- ==== Sys2Proof/Machine/Magnitude.lean ====
section
/-! DEFINITION. The magnitude unit: MAG (R71). -/

namespace Sys2Proof.Machine

variable {R : Type}

/-- The state changes of MAG: `MB[i] <- mag XB[i].re XB[i].im` for the first half; `SC` stays (R70, R71). -/
def Block.magEffect (E : Env R) (b : Block R) : Block R :=
  (b.writeMb (magnitudeAt E.num (b.xbAt E))).enter .mags b.sc

/-- MAG (R71): allowed in `STAGES` with `SC = L`. -/
def Block.magnitudes (E : Env R) (b : Block R) : Answer R :=
  b.guarded b.cfgErr false (!(decide (b.ph = .stages) && decide (b.sc.toNat = b.logN)))
    fun b => (b.magEffect E).respond (.int 0)

/-- MAG (R71). -/
def execMag (s : State) : Host.Outcome State Fault Refusal :=
  s.deliver (s.toBlock.magnitudes s.env)

end Sys2Proof.Machine
end

