-- ==== Sys2Proof/Machine/Transform.lean ====
section
/-! DEFINITION. The transform: LDC (R65), BREV (R66), STG (R67), FFT (R68). -/

namespace Sys2Proof.Machine

variable {R : Type}

/-- The state changes of LDC: `XB[i] <- (FB[i], zero)` (R65). -/
def Block.ldcEffect (E : Env R) (b : Block R) : Block R :=
  (b.writeXb fun i => ⟨b.fbAt E i, E.num.zero⟩).enter .loaded 0#5

/-- The state changes of BREV: `XB[i] <- old[rev_L(i)]` (R66). -/
def Block.brevEffect (E : Env R) (b : Block R) : Block R :=
  (b.writeXb fun i => b.xbAt E (rev b.logN i)).enter .stages 0#5

/-- The state changes of `STG s`: `N/2` butterflies in place, then `SC <- s` (R67). -/
def Block.stgEffect (E : Env R) (stage : Nat) (b : Block R) : Block R :=
  (b.writeXb (stageAt E.num b.logN stage (b.xbAt E))).enter .stages (BitVec.ofNat 5 stage)

/-- The state changes of `BREV ; STG 1 ; … ; STG k`. -/
def Block.stagesEffect (E : Env R) (b : Block R) : Nat → Block R
  | 0 => b.brevEffect E
  | k + 1 => (b.stagesEffect E k).stgEffect E (k + 1)

/-- The state changes of FFT: those of `BREV ; STG 1 ; … ; STG L` (R68). -/
def Block.fftEffect (E : Env R) (b : Block R) : Block R := b.stagesEffect E b.logN

/-- LDC (R65): allowed in `FRAME` and `WINDOWED`. -/
def Block.ldc (E : Env R) (b : Block R) : Answer R :=
  b.guarded b.cfgErr false (!(decide (b.ph = .frame) || decide (b.ph = .windowed)))
    fun b => (b.ldcEffect E).respond (.int 0)

/-- BREV (R66): allowed in `LOADED`. -/
def Block.brev (E : Env R) (b : Block R) : Answer R :=
  b.guarded b.cfgErr false (decide (b.ph ≠ .loaded)) fun b => (b.brevEffect E).respond (.int 0)

/-- STG s (R67): `OPERR` outside `1 .. L`; allowed in `STAGES` with `SC = s - 1`. -/
def Block.stg (E : Env R) (stage : Nat) (b : Block R) : Answer R :=
  b.guarded b.cfgErr (!b.stageLegal stage)
    (!(decide (b.ph = .stages) && decide (b.sc.toNat + 1 = stage)))
    fun b => (b.stgEffect E stage).respond (.int 0)

/-- FFT (R68): allowed in `LOADED`; one response. -/
def Block.fft (E : Env R) (b : Block R) : Answer R :=
  b.guarded b.cfgErr false (decide (b.ph ≠ .loaded)) fun b => (b.fftEffect E).respond (.int 0)

/-- LDC (R65). -/
def execLdc (s : State) : Host.Outcome State Fault Refusal :=
  s.deliver (s.toBlock.ldc s.env)

/-- BREV (R66). -/
def execBrev (s : State) : Host.Outcome State Fault Refusal :=
  s.deliver (s.toBlock.brev s.env)

/-- STG s (R67). -/
def execStg (stage : Nat) (s : State) : Host.Outcome State Fault Refusal :=
  s.deliver (s.toBlock.stg s.env stage)

/-- FFT (R68). -/
def execFft (s : State) : Host.Outcome State Fault Refusal :=
  s.deliver (s.toBlock.fft s.env)

end Sys2Proof.Machine
end

