-- ==== Sys2Proof/Machine/Window.lean ====
section
/-! DEFINITION. The window multiplier: WIN (R57). -/

namespace Sys2Proof.Machine

variable {R : Type}

/-- The state changes of WIN: `FB[i] <- mul FB[i] WROM[i]` (R54, R57). -/
def Block.winEffect (E : Env R) (b : Block R) : Block R :=
  (b.writeFb (windowAt E.num b.n (b.fbAt E))).enter .windowed 0#5

/-- WIN (R57): allowed in `FRAME` only. -/
def Block.win (E : Env R) (b : Block R) : Answer R :=
  b.guarded b.cfgErr false (decide (b.ph ≠ .frame)) fun b => (b.winEffect E).respond (.int 0)

/-- WIN (R57). -/
def execWin (s : State) : Host.Outcome State Fault Refusal :=
  s.deliver (s.toBlock.win s.env)

end Sys2Proof.Machine
end

