-- ==== Sys2Proof/Machine/Orchestration.lean ====
section
/-! DEFINITION. The Analyzer's macro command PROC (R79). -/

namespace Sys2Proof.Machine

variable {R : Type}

/-- The state changes of a successful PROC: those of `XFRM ; WIN ; LDC ; FFT ; MAG ; BANDS` (R79). -/
def Block.procEffect (E : Env R) (b : Block R) : Block R :=
  (((((b.xfrmEffect).winEffect E).ldcEffect E).fftEffect E).magEffect E).bandsEffect E

/-- PROC (R79): allowed in every phase; without a frame it only marks the result stale. -/
def Block.proc (E : Env R) (b : Block R) : Answer R :=
  b.guarded b.cfgErr false false fun b =>
    if b.frameQueued then (b.procEffect E).respond (.int 0) else (b.staleRes E).notReady

/-- PROC (R79). -/
def execProc (s : State) : Host.Outcome State Fault Refusal :=
  s.deliver (s.toBlock.proc s.env)

end Sys2Proof.Machine
end

