-- ==== Sys2Proof/Machine/ReadBack.lean ====
section
/-! DEFINITION. The eleven read-back commands (R83 to R94), each the shared read of its index space. -/

namespace Sys2Proof.Machine

/-- RDCFG idx (R84): a configuration register; also when `CFGERR = 1`. -/
def execRdcfg (idx : Nat) (s : State) : Host.Outcome State Fault Refusal :=
  s.deliver (s.toBlock.readBack s.env .cfg idx)

/-- RDSTAT (R85): the status view; also when `CFGERR = 1`. -/
def execRdstat (s : State) : Host.Outcome State Fault Refusal :=
  s.deliver (s.toBlock.readBack s.env .status 0)

/-- RDQLEN (R86): the queue length, saturated at `2^64 - 1`. -/
def execRdqlen (s : State) : Host.Outcome State Fault Refusal :=
  s.deliver (s.toBlock.readBack s.env .qlen 0)

/-- RDRES idx (R87): a result register; reading does not clear `RES.NEW`. -/
def execRdres (idx : Nat) (s : State) : Host.Outcome State Fault Refusal :=
  s.deliver (s.toBlock.readBack s.env .res idx)

/-- RDFB idx (R88): one entry of the frame buffer. -/
def execRdfb (idx : Nat) (s : State) : Host.Outcome State Fault Refusal :=
  s.deliver (s.toBlock.readBack s.env .fb idx)

/-- RDXR idx (R89): the real part of one entry of the complex buffer. -/
def execRdxr (idx : Nat) (s : State) : Host.Outcome State Fault Refusal :=
  s.deliver (s.toBlock.readBack s.env .xbRe idx)

/-- RDXI idx (R90): the imaginary part of one entry of the complex buffer. -/
def execRdxi (idx : Nat) (s : State) : Host.Outcome State Fault Refusal :=
  s.deliver (s.toBlock.readBack s.env .xbIm idx)

/-- RDMB idx (R91): one entry of the magnitude buffer. -/
def execRdmb (idx : Nat) (s : State) : Host.Outcome State Fault Refusal :=
  s.deliver (s.toBlock.readBack s.env .mb idx)

/-- RDWIN idx (R92): one windowing coefficient. -/
def execRdwin (idx : Nat) (s : State) : Host.Outcome State Fault Refusal :=
  s.deliver (s.toBlock.readBack s.env .wrom idx)

/-- RDTWR idx (R93): the real part of one twiddle factor. -/
def execRdtwr (idx : Nat) (s : State) : Host.Outcome State Fault Refusal :=
  s.deliver (s.toBlock.readBack s.env .tromRe idx)

/-- RDTWI idx (R94): the imaginary part of one twiddle factor. -/
def execRdtwi (idx : Nat) (s : State) : Host.Outcome State Fault Refusal :=
  s.deliver (s.toBlock.readBack s.env .tromIm idx)

end Sys2Proof.Machine
end

