-- ==== Sys2Proof/Machine/Dispatch.lean ====
section
/-! DEFINITION. From an instruction to its meaning, one arm per constructor. -/

namespace Sys2Proof.Machine

def exec (i : Instr) (s : State) : Host.Outcome State Fault Refusal :=
  match i with
  | .feed sbits => Sys2Proof.Machine.execFeed sbits s
  | .proc => Sys2Proof.Machine.execProc s
  | .xfrm => Sys2Proof.Machine.execXfrm s
  | .win => Sys2Proof.Machine.execWin s
  | .ldc => Sys2Proof.Machine.execLdc s
  | .brev => Sys2Proof.Machine.execBrev s
  | .stg stage => Sys2Proof.Machine.execStg stage s
  | .fft => Sys2Proof.Machine.execFft s
  | .mag => Sys2Proof.Machine.execMag s
  | .band minHz maxHz => Sys2Proof.Machine.execBand minHz maxHz s
  | .bands => Sys2Proof.Machine.execBands s
  | .rdcfg idx => Sys2Proof.Machine.execRdcfg idx s
  | .rdstat => Sys2Proof.Machine.execRdstat s
  | .rdqlen => Sys2Proof.Machine.execRdqlen s
  | .rdres idx => Sys2Proof.Machine.execRdres idx s
  | .rdfb idx => Sys2Proof.Machine.execRdfb idx s
  | .rdxr idx => Sys2Proof.Machine.execRdxr idx s
  | .rdxi idx => Sys2Proof.Machine.execRdxi idx s
  | .rdmb idx => Sys2Proof.Machine.execRdmb idx s
  | .rdwin idx => Sys2Proof.Machine.execRdwin idx s
  | .rdtwr idx => Sys2Proof.Machine.execRdtwr idx s
  | .rdtwi idx => Sys2Proof.Machine.execRdtwi idx s

end Sys2Proof.Machine
end

