-- ==== Sys2Proof/Machine/Step.lean ====
section
/-! DEFINITION. One step: the next thing the host presents is taken and done (R36, R37). -/

namespace Sys2Proof.Machine

/-- One step. A command word is decoded and executed, or raises `ILLCMD` before anything else (R48, R97,
R102); a reset pulse resets the block (R107); while the host presents nothing the block waits and nothing changes
(R37, R82, log 8). -/
def step (s : State) : Host.Outcome State Fault Refusal :=
  match s.input with
  | [] => .next s
  | .reset fs l :: rest => State.hostReset fs l { s with input := rest }
  | .command w :: rest =>
    match decodeFor s.par.w w with
    | .ok i => exec i { s with input := rest }
    | .error _ => State.illegal { s with input := rest }

/-- The host presents the table word next, before anything it still has to present. -/
def State.withFetchWord (s : State) (nbits w : Nat) : State :=
  { s with input := .command (tableWord nbits w) :: s.input }

end Sys2Proof.Machine
end

