-- ==== Sys2Proof/Machine/Reference.lean ====
section
/-! DEFINITION. The references the units are held against: the recursive transform (R61), the stage as
one in-place butterfly after another (R41, R67), the pipeline of one frame written out (R79), and the named laws of a
number system (R8, R10). The machine does not run these. -/

namespace Sys2Proof.Machine

variable {R : Type}

/-- `T` on a sequence of `2^l` values, given and returned by its entries `0 .. 2^l - 1` (R61). Its
length is a power of two by construction, so it has no meaning on other lengths (R63). -/
def refTransform (K : Arith R) : Nat → (Nat → Cplx R) → Nat → Cplx R
  | 0, x => x
  | l + 1, x =>
    let even := refTransform K l fun t => x (2 * t)
    let odd := refTransform K l fun t => x (2 * t + 1)
    fun i =>
      if i < 2 ^ l then cadd K (even i) (cmul K (twiddle K i (2 ^ (l + 1))) (odd i))
      else csub K (even (i - 2 ^ l))
        (cmul K (twiddle K (i - 2 ^ l) (2 ^ (l + 1))) (odd (i - 2 ^ l)))

/-- One butterfly of stage `s` in place: block `c`, offset `j`, the pair `(p, q)` (R67). -/
def butterflyInPlace (K : Arith R) (l s : Nat) (xs : List (Cplx R)) (cj : Nat × Nat) : List (Cplx R) :=
  let p := cj.1 * 2 ^ s + cj.2
  let q := p + 2 ^ s / 2
  match xs[p]?, xs[q]? with
  | some u, some v =>
    let r := butterfly K u v (twiddle K (twiddleAddr l s cj.2) (2 ^ l))
    (xs.set p r.1).set q r.2
  | _, _ => xs

/-- The butterflies of stage `s`: every block, every offset (R67). -/
def stagePairs (l s : Nat) : List (Nat × Nat) :=
  (List.range (2 ^ l / 2 ^ s)).flatMap fun c => (List.range (2 ^ s / 2)).map fun j => (c, j)

/-- Frame `x`, windowed and loaded (R57, R65). -/
def loadedAt (K : Arith R) (l : Nat) (x : Nat → R) (i : Nat) : Cplx R :=
  ⟨windowAt K (2 ^ l) x i, K.zero⟩

/-- The magnitude spectrum of the frame `x`, as PROC computes it (R79). -/
def spectrumAt (K : Arith R) (l : Nat) (x : Nat → R) : Nat → R :=
  magnitudeAt K (stagesUpTo K l (loadedAt K l x) l)

/-- The energy of a band of the frame `x`, as PROC computes it (R79). -/
def frameBand (K : Arith R) (fs l : Nat) (x : Nat → R) (lo hi : Int) : R :=
  bandE K fs l (spectrumAt K l x) lo hi

/-- The bins of the spectrum a band covers: those of `0 .. N/2 - 1` from `binIndex(lo)` to `binIndex(hi)`,
both included, ascending (R73, R75). -/
def bandBins (fs n : Nat) (lo hi : Int) : List Nat :=
  (List.range (n / 2)).filter fun b =>
    decide (Int.fdiv (lo * n) fs ≤ b) && decide ((b : Int) ≤ Int.fdiv (hi * n) fs)

/-- The band's value without any clamp: the mean over its bins, `zero` where it has none (R73, R74). -/
def bandMean (K : Arith R) (fs n : Nat) (mb : Nat → R) (lo hi : Int) : R :=
  let bins := bandBins fs n lo hi
  if bins.isEmpty then K.zero
  else K.divn (bins.foldl (fun acc b => K.add acc (mb b)) K.zero) bins.length

end Sys2Proof.Machine

namespace Sys2Proof

variable {R : Type}

/-! ### The named laws (R8, R10): a claim that needs one assumes it by name. -/

/-- A value some ROM holds. -/
def Arith.InRom (K : Arith R) (x : R) : Prop :=
  ∃ n i, 2 ≤ n ∧ ((i < n ∧ x = K.hann i n) ∨ (i < n / 2 ∧ (x = K.twre i n ∨ x = K.twim i n)))

/-- NL-ZERO, where `finite` says which values count as finite numbers. -/
def Arith.NLZero (K : Arith R) (finite : R → Prop) : Prop :=
  (∀ x, K.InRom x ∨ finite x → K.mul x K.zero = K.zero ∧ K.mul K.zero x = K.zero) ∧
  K.add K.zero K.zero = K.zero ∧ K.sub K.zero K.zero = K.zero ∧ K.mag K.zero K.zero = K.zero ∧
  ∀ c, 1 ≤ c → K.divn K.zero c = K.zero

/-- NL-EDGE. -/
def Arith.NLEdge (K : Arith R) : Prop :=
  ∀ n, 2 ≤ n → K.hann 0 n = K.zero ∧ K.hann (n - 1) n = K.zero

/-- NL-SYM. -/
def Arith.NLSym (K : Arith R) : Prop := ∀ n i, 2 ≤ n → i < n → K.hann i n = K.hann (n - 1 - i) n

/-- NL-TW0. -/
def Arith.NLTw0 (K : Arith R) : Prop :=
  ∀ n, 2 ≤ n → (∀ x, K.mul (K.twre 0 n) x = x) ∧ K.twim 0 n = K.zero

/-- NL-TWRED, for `c = 2^e`. -/
def Arith.NLTwRed (K : Arith R) : Prop :=
  ∀ n k e, 2 ≤ n → k < n / 2 →
    K.twre (k * 2 ^ e) (n * 2 ^ e) = K.twre k n ∧ K.twim (k * 2 ^ e) (n * 2 ^ e) = K.twim k n

/-- NL-COMM. -/
def Arith.NLComm (K : Arith R) : Prop :=
  ∀ x y, K.add x y = K.add y x ∧ K.mul x y = K.mul y x

/-- NL-MAGPOS, where `negative` says which values are negative. -/
def Arith.NLMagPos (K : Arith R) (negative : R → Prop) : Prop := ∀ x y, ¬ negative (K.mag x y)

end Sys2Proof
end

