-- ==== Sys2Proof/Machine/Exact.lean ====
section
/-! DEFINITION. `Exact`, the reference instance of the number system: the reals (R8, R9). Not
computable and not run by `step`; the values and properties the spec states for `Exact` are claims about the same
unit definitions at this instance. -/

namespace Sys2Proof.Machine

/-- `Num = Exact`: every field at its exact-real meaning (R8, R9). -/
noncomputable def exact : Arith ℝ where
  zero := 0
  add a b := a + b
  sub a b := a - b
  mul a b := a * b
  divn a c := a / c
  mag a b := Real.sqrt (a ^ 2 + b ^ 2)
  hann i n := (1 / 2) * (1 - Real.cos (2 * Real.pi * i / (n - 1)))
  twre k n := Real.cos (2 * Real.pi * k / n)
  twim k n := -Real.sin (2 * Real.pi * k / n)

/-- A complex pair of reals as a complex number. -/
noncomputable def toComplex (z : Cplx ℝ) : ℂ := ⟨z.re, z.im⟩

/-- `Σ_{t<n} x[t] · e^(−2πi·k·t/n)`, the discrete Fourier transform (R62 (b)). -/
noncomputable def dft (n : Nat) (x : Nat → Cplx ℝ) (k : Nat) : ℂ :=
  ∑ t ∈ Finset.range n, toComplex (x t) * Complex.exp (-(2 * Real.pi * Complex.I * k * t / n))

end Sys2Proof.Machine
end

