-- ==== Sys2Proof/Machine/PhaseTable.lean ====
section
/-! DEFINITION. The summary tables of the spec, written from R96, R99, R102 and R109 and not from the
meanings: which status a command answers with, and which phase it leaves. Claims hold the meanings against them; the
machine does not use them. -/

namespace Sys2Proof.Machine

variable {R : Type}

/-- `ok` entries of the table of R109 (with `SC` and `L` where an entry depends on them). -/
def tableAllows (i : Instr) (ph : Phase) (sc l : Nat) : Bool :=
  match i with
  | .feed _ => true
  | .proc => true
  | .xfrm => true
  | .win => [Phase.frame].contains ph
  | .ldc => [Phase.frame, .windowed].contains ph
  | .brev => [Phase.loaded].contains ph
  | .fft => [Phase.loaded].contains ph
  | .stg stage => [Phase.stages].contains ph && sc + 1 == stage
  | .mag => [Phase.stages].contains ph && sc == l
  | .band _ _ => [Phase.mags].contains ph
  | .bands => [Phase.mags].contains ph
  | .rdfb _ => [Phase.frame, .windowed, .loaded, .stages, .mags].contains ph
  | .rdxr _ => [Phase.loaded, .stages, .mags].contains ph
  | .rdxi _ => [Phase.loaded, .stages, .mags].contains ph
  | .rdmb _ => [Phase.mags].contains ph
  | .rdcfg _ => true
  | .rdstat => true
  | .rdqlen => true
  | .rdres _ => true
  | .rdwin _ => true
  | .rdtwr _ => true
  | .rdtwi _ => true

/-- The operands that raise `OPERR` (R99, with the legal indices of R32). -/
def tableOperandBad (i : Instr) (l : Nat) : Bool :=
  match i with
  | .stg stage => stage == 0 || decide (l < stage)
  | .rdcfg idx => decide (2 < idx)
  | .rdres idx => decide (3 < idx)
  | .rdfb idx => decide (2 ^ l ≤ idx)
  | .rdxr idx => decide (2 ^ l ≤ idx)
  | .rdxi idx => decide (2 ^ l ≤ idx)
  | .rdwin idx => decide (2 ^ l ≤ idx)
  | .rdmb idx => decide (2 ^ l / 2 ≤ idx)
  | .rdtwr idx => decide (2 ^ l / 2 ≤ idx)
  | .rdtwi idx => decide (2 ^ l / 2 ≤ idx)
  | .feed _ => false
  | .proc => false
  | .xfrm => false
  | .win => false
  | .ldc => false
  | .brev => false
  | .fft => false
  | .mag => false
  | .band _ _ => false
  | .bands => false
  | .rdstat => false
  | .rdqlen => false

/-- The two commands that skip the `CFGERR` check (R98). -/
def tableSkipsCfg (i : Instr) : Bool :=
  match i with
  | .rdcfg _ => true
  | .rdstat => true
  | .feed _ => false
  | .proc => false
  | .xfrm => false
  | .win => false
  | .ldc => false
  | .brev => false
  | .stg _ => false
  | .fft => false
  | .mag => false
  | .band _ _ => false
  | .bands => false
  | .rdqlen => false
  | .rdres _ => false
  | .rdfb _ => false
  | .rdxr _ => false
  | .rdxi _ => false
  | .rdmb _ => false
  | .rdwin _ => false
  | .rdtwr _ => false
  | .rdtwi _ => false

/-- The outcomes that depend on the queue, checked last (R102 item 5): `QFULL` and `NOTREADY`. -/
def tableData (i : Instr) (b : Block R) : Status :=
  match i with
  | .feed _ => if b.par.qcap = some b.q.length then .qfull else .ok
  | .proc => if b.q.length < b.n then .notready else .ok
  | .xfrm => if b.q.length < b.n then .notready else .ok
  | .win => .ok
  | .ldc => .ok
  | .brev => .ok
  | .stg _ => .ok
  | .fft => .ok
  | .mag => .ok
  | .band _ _ => .ok
  | .bands => .ok
  | .rdcfg _ => .ok
  | .rdstat => .ok
  | .rdqlen => .ok
  | .rdres _ => .ok
  | .rdfb _ => .ok
  | .rdxr _ => .ok
  | .rdxi _ => .ok
  | .rdmb _ => .ok
  | .rdwin _ => .ok
  | .rdtwr _ => .ok
  | .rdtwi _ => .ok

/-- The configuration is valid, as R7 says it. -/
def tableCfgValid (b : Block R) : Prop :=
  1 ≤ b.cfg.l.toNat ∧ b.cfg.l.toNat ≤ b.par.lmax ∧ 1 ≤ b.cfg.fs.toNat ∧ b.cfg.fs.toNat ≤ 2147483647

/-- The status a legal command answers with: the first condition of R102 that holds. -/
def tableStatus (i : Instr) (b : Block R) : Status :=
  if !tableSkipsCfg i && b.cfgErr then .cfgerr
  else if tableOperandBad i b.logN then .operr
  else if !tableAllows i b.ph b.sc.toNat b.logN then .seqerr
  else tableData i b

/-- The phase and stage count after a command that answered `OK` (the last paragraph of R109). -/
def tableNext (i : Instr) (b : Block R) : Phase × Nat :=
  match i with
  | .xfrm => (.frame, 0)
  | .win => (.windowed, 0)
  | .ldc => (.loaded, 0)
  | .brev => (.stages, 0)
  | .stg stage => (.stages, stage)
  | .fft => (.stages, b.logN)
  | .mag => (.mags, b.sc.toNat)
  | .proc => (.mags, b.logN)
  | .feed _ => (b.ph, b.sc.toNat)
  | .band _ _ => (b.ph, b.sc.toNat)
  | .bands => (b.ph, b.sc.toNat)
  | .rdcfg _ => (b.ph, b.sc.toNat)
  | .rdstat => (b.ph, b.sc.toNat)
  | .rdqlen => (b.ph, b.sc.toNat)
  | .rdres _ => (b.ph, b.sc.toNat)
  | .rdfb _ => (b.ph, b.sc.toNat)
  | .rdxr _ => (b.ph, b.sc.toNat)
  | .rdxi _ => (b.ph, b.sc.toNat)
  | .rdmb _ => (b.ph, b.sc.toNat)
  | .rdwin _ => (b.ph, b.sc.toNat)
  | .rdtwr _ => (b.ph, b.sc.toNat)
  | .rdtwi _ => (b.ph, b.sc.toNat)

end Sys2Proof.Machine
end

