-- ==== Sys2Proof/Machine/Assembly.lean ====
section
/-! DEFINITION. How commands are written (R49) and the pseudo-commands (R50). -/

namespace Sys2Proof.Machine

/-- The textual form of a command (R49); a sample is written as `#` and its bits in hexadecimal. -/
def instrText (i : Instr) : String :=
  match i with
  | .feed sbits => "FEED #" ++ sbits.toHex
  | .proc => "PROC"
  | .xfrm => "XFRM"
  | .win => "WIN"
  | .ldc => "LDC"
  | .brev => "BREV"
  | .stg stage => "STG " ++ toString stage
  | .fft => "FFT"
  | .mag => "MAG"
  | .band minHz maxHz => "BAND " ++ toString minHz ++ ", " ++ toString maxHz
  | .bands => "BANDS"
  | .rdcfg idx => "RDCFG " ++ toString idx
  | .rdstat => "RDSTAT"
  | .rdqlen => "RDQLEN"
  | .rdres idx => "RDRES " ++ toString idx
  | .rdfb idx => "RDFB " ++ toString idx
  | .rdxr idx => "RDXR " ++ toString idx
  | .rdxi idx => "RDXI " ++ toString idx
  | .rdmb idx => "RDMB " ++ toString idx
  | .rdwin idx => "RDWIN " ++ toString idx
  | .rdtwr idx => "RDTWR " ++ toString idx
  | .rdtwi idx => "RDTWI " ++ toString idx

/-- The name of a status code (R46, R49). -/
def Status.name : Status → String
  | .ok => "OK"
  | .notready => "NOTREADY"
  | .illcmd => "ILLCMD"
  | .operr => "OPERR"
  | .seqerr => "SEQERR"
  | .cfgerr => "CFGERR"
  | .qfull => "QFULL"

/-- `FEEDV [s0, …]` (R50): one FEED a sample, in order; nothing for the empty sequence. -/
def feedv (samples : List Payload) : List Instr := samples.map .feed

/-- How many PROCs `DRAIN` issues (R50): `fdiv(len(Q), N) + 1`. -/
def drainLength (len n : Nat) : Nat := len / n + 1

/-- `DRAIN` from a queue of `len` samples (R50). -/
def drain (len n : Nat) : List Instr := List.replicate (drainLength len n) .proc

/-- `BASS` (R50). -/
def readBass : Instr := .rdres 0
/-- `MID` (R50). -/
def readMid : Instr := .rdres 1
/-- `TREBLE` (R50). -/
def readTreble : Instr := .rdres 2
/-- `NEW` (R50). -/
def readNew : Instr := .rdres 3

/-- `processSpectrum` (R50). -/
def processSpectrum : List Instr := [.proc, readNew, readBass, readMid, readTreble]

/-- The host presents these commands after what it still has to present (R37). -/
def State.present (cmds : List Instr) (s : State) : State :=
  { s with input := s.input ++ cmds.map fun i => .command (encode i) }

end Sys2Proof.Machine
end

