-- ==== Sys2Proof/Safety.lean ====
section
/-! DEFINITION. What a safe run is, in the terms the claims use: the canonical form of the buffers, the
invariant of the block, a legal response, a run without recorded errors. -/

namespace Sys2Proof.Machine

variable {R : Type}

/-- The canonical form of the buffers: each lists no entry (nothing written since reset) or exactly its
own number of entries (R18, R19, R20, log 7). The hardware has no byte-addressed memory (R29). -/
def Memory.wf (b : Block R) : Bool :=
  (decide (b.fb.length = 0) || decide (b.fb.length = b.n)) &&
  (decide (b.xb.length = 0) || decide (b.xb.length = b.n)) &&
  (decide (b.mb.length = 0) || decide (b.mb.length = b.n / 2))

/-- The invariant of the block (R17 to R24, R98). -/
structure Block.Inv (b : Block R) : Prop where
  memory : Memory.wf b = true
  /-- A valid buffer holds all its entries (R21). -/
  fbHeld : Space.validIn .fb b.ph = true → b.fb.length = b.n
  xbHeld : Space.validIn .xbRe b.ph = true → b.xb.length = b.n
  mbHeld : Space.validIn .mb b.ph = true → b.mb.length = b.n / 2
  /-- `0 <= SC <= L` in `STAGES`, `SC = L` in `MAGS`, else 0 (R23). -/
  stagesInRange : b.ph = .stages → b.sc.toNat ≤ b.logN
  stagesDone : b.ph = .mags → b.sc.toNat = b.logN
  stagesNone : b.ph ≠ .stages → b.ph ≠ .mags → b.sc = 0#5
  /-- `len(Q) <= QCAP` (R17). -/
  queueBound : ∀ c, b.par.qcap = some c → b.q.length ≤ c
  /-- `ERR.QOVF` is never set when `QCAP = ∞` (R24). -/
  overflowBounded : b.err.qovf = true → b.par.qcap ≠ none
  /-- An instance with an invalid configuration performs no operation (R7, R98). -/
  unconfigured : b.cfgErr = true → b.q = [] ∧ b.ph = .idle ∧ b.res.new = false

/-- Everything that a rule types as `Num.R` is an element of the set `R` of the instance's number system (R8,
R17 to R20, R22). -/
structure Block.Held (b : Block NumR) : Prop where
  q : ∀ v ∈ b.q, b.num.mem v
  fb : ∀ v ∈ b.fb, b.num.mem v
  xb : ∀ z ∈ b.xb, b.num.mem z.re ∧ b.num.mem z.im
  mb : ∀ v ∈ b.mb, b.num.mem v
  bass : b.num.mem b.res.bass
  mid : b.num.mem b.res.mid
  treble : b.num.mem b.res.treble

/-- The code field of a response word (R46). -/
def codeField (w : ResponseWord) : BitVec 4 := w.extractLsb' 64 4

/-- The data field of a response word (R46). -/
def dataField (w : ResponseWord) : Data := w.extractLsb' 0 64

/-- A response word as R46 allows it: reserved bits 0, a produced code, no data unless `OK`. -/
def responseLegal (w : ResponseWord) : Bool :=
  decide (w.extractLsb' 68 4 = 0#4) && decide ((codeField w).toNat ≤ 6) &&
    (decide (codeField w = 0#4) || decide (dataField w = 0#64))

/-- No sticky flag is set (R95). -/
def Block.clean (b : Block R) : Bool := !b.err.ill && !b.err.op && !b.err.seq && !b.err.qovf

/-- The host presents no reset among what it presents next (R107). -/
def noReset (events : List HostEvent) : Bool :=
  events.all fun e => match e with
    | .command _ => true
    | .reset _ _ => false

/-- A move of the host's loop (R82): FEED of some bits, or PROC. -/
def feedOrProc (move : Option Payload) : Instr :=
  match move with
  | some sbits => .feed sbits
  | none => .proc

/-- How many PROCs among the moves answered `OK`. -/
def framesAnalysed (moves : List (Option Payload)) (answers : List ResponseWord) : Nat :=
  (moves.zip answers).countP fun p => p.1.isNone && codeField p.2 == 0#4

/-- Commands executed one after another, stopping where one does not answer a next state. -/
def execAll : List Instr → State → Host.Outcome State Fault Refusal
  | [], s => .next s
  | i :: rest, s =>
    match exec i s with
    | .next t => execAll rest t
    | .fault f => .fault f
    | .refused r => .refused r

/-- The words with opcode `op` spell the command `i` without operands, or are illegal (format Z, R45). -/
def decodesZ (op : BitVec 8) (i : Instr) : Prop :=
  ∀ (W : Nat) (p : Payload), decodeFor W (op ++ p) = if p = 0#64 then .ok i else .error .mustBeZero

/-- The words with opcode `op` spell the command `c` with an index, or are illegal (format R, R45). -/
def decodesR (op : BitVec 8) (c : Nat → Instr) : Prop :=
  ∀ (W : Nat) (p : Payload), decodeFor W (op ++ p) =
    if p.extractLsb' 32 32 = 0#32 then .ok (c (p.extractLsb' 0 32).toNat) else .error .mustBeZero

/-- The command answers `CFGERR` and does nothing while the configuration is invalid (R98). -/
def needsConfiguration (i : Instr) : Prop :=
  ∀ s : State, s.cfgErr = true →
    exec i s = .next { s with output := s.output ++ [responseWord .cfgerr 0#64] }

/-- Two blocks that a host cannot tell apart: they differ at most in what invalid buffers hold (R21). -/
structure SameValid (a b : Block R) : Prop where
  q : a.q = b.q
  res : a.res = b.res
  ph : a.ph = b.ph
  sc : a.sc = b.sc
  err : a.err = b.err
  cfg : a.cfg = b.cfg
  par : a.par = b.par
  draws : a.draws = b.draws
  fb : Space.validIn .fb a.ph = true → a.fb = b.fb
  xb : Space.validIn .xbRe a.ph = true → a.xb = b.xb
  mb : Space.validIn .mb a.ph = true → a.mb = b.mb

end Sys2Proof.Machine
end

