-- ==== Sys2Proof/Certificates/Slice0/Obligations.lean ====
section
/-! DEFINITION. What is claimed of the model, one proposition each. `s.num` (the number system, for the width
`W` that `s` holds), the draws and the unwritten entries rest on opaque constants, so a claim that names them holds for
every number system and every free value; a claim over `Arith R` or `Env R` says so in its binders. -/

open Sys2Proof Sys2Proof.Machine

/-! ### Encoding and fetch -/

/-- R37: the command the host presents is decoded and executed, with nothing around it. -/
def Obligations.StepRunsDecodedCommand : Prop :=
  (∀ (s : State) (w : CommandWord) (rest : List HostEvent) (i : Instr),
    s.input = .command w :: rest → decodeFor s.par.w w = .ok i → step s = exec i { s with input := rest }) ∧
  (∀ (s : State) (w : Nat) (i : Instr), w < 2 ^ 72 → decodeFor s.par.w (BitVec.ofNat 72 w) = .ok i →
    step (s.withFetchWord 72 w) = exec i s) ∧
  (∀ s : State, s.input = [] → step s = .next s)

/-- R97: a word that spells no row of the table (a reserved opcode, or a must-be-0 bit that is 1) raises
`ILLCMD` before anything else, and also when `CFGERR = 1`. -/
def Obligations.IllegalWordRaisesIllcmd : Prop :=
  ∀ (s : State) (w : CommandWord) (rest : List HostEvent),
    s.input = .command w :: rest → (∀ r ∈ opcodeTableFor s.par.w, r.spells w = false) →
    step s = .next { s with
      input := rest, err := { s.err with ill := true },
      output := s.output ++ [responseWord .illcmd 0#64] }

/-- Decoding the encoding of a well-formed instruction gives it back, every operand at every value, for
every width `W` of a sample. -/
def Obligations.DecodeOfEncode : Prop :=
  ∀ (W : Nat) (i : Instr), i.wellFormedFor W = true → decodeFor W (encode i) = .ok i

/-- What decodes is well formed, and its encoding is the word it came from: no bit is ignored. For every
width `W` of a sample. -/
def Obligations.EncodeOfDecode : Prop :=
  ∀ (W : Nat) (w : CommandWord) (i : Instr), decodeFor W w = .ok i →
    i.wellFormedFor W = true ∧ encode i = w

/-- R47, R48: the decoder and the `match`/`mask` table agree on every word, and no word matches two rows
of different commands. For every width `W` of a sample, FEED's mask as R47 says "in general". -/
def Obligations.DecoderAgreesWithOpcodeTable : Prop :=
  ∀ (W : Nat) (w : CommandWord),
    match decodeFor W w with
    | .ok i => (∃ r ∈ opcodeTableFor W, r.spells w = true) ∧
        ∀ r ∈ opcodeTableFor W, r.spells w = true → r.mnemonic = i.mnemonic
    | .error _ => ∀ r ∈ opcodeTableFor W, r.spells w = false

/-- R48: the reserved opcode values, by the ranges the rule lists, are illegal whatever the payload. -/
def Obligations.ReservedOpcodesIllegal : Prop :=
  ∀ (W : Nat) (w : CommandWord), decodeFor W w = .error .reservedOpcode ↔
    ((opField w).toNat = 0x00 ∨ (0x03 ≤ (opField w).toNat ∧ (opField w).toNat ≤ 0x0F) ∨
     (0x19 ≤ (opField w).toNat ∧ (opField w).toNat ≤ 0x1F) ∨ 0x2B ≤ (opField w).toNat)

/-- Words written out in V-ENC-1 and V-ENC-2 (`95_test_vectors.md`), one or more of every format; the
vectors are for `W = 32`, which only FEED's words ask about. -/
def Obligations.SpecWordsDecode : Prop :=
  decodeFor 32 0x01000000003F800000#72 = .ok (.feed 0x3F800000#64) ∧
  decodeFor 32 0x010000000100000000#72 = .error .mustBeZero ∧
  decodeFor 32 0x020000000000000000#72 = .ok .proc ∧
  decodeFor 32 0x14000000000000000B#72 = .ok (.stg 11) ∧
  decodeFor 32 0x170000009600000014#72 = .ok (.band 20 150) ∧
  decodeFor 32 0x17FFFFFFFBFFFFFFE2#72 = .ok (.band (-30) (-5)) ∧
  decodeFor 32 0x2700000000000003FF#72 = .ok (.rdmb 1023) ∧
  decodeFor 32 0x140000000000000100#72 = .error .mustBeZero ∧
  decodeFor 32 0x000000000000000000#72 = .error .reservedOpcode

/-! ### Every command is answered; errors; priority -/

/-- R43, R46: every accepted command produces exactly one response word, of the form R46 gives, and the
block never stops. -/
def Obligations.CommandAnsweredOnce : Prop :=
  ∀ (s : State) (w : CommandWord) (rest : List HostEvent), s.input = .command w :: rest →
    ∃ (t : State) (r : ResponseWord), step s = .next t ∧ t.input = rest ∧
      t.output = s.output ++ [r] ∧ responseLegal r = true

/-- R102 and R109: every command answers with the first condition of the priority list that holds. -/
def Obligations.StatusFollowsPriority : Prop :=
  ∀ (i : Instr) (s : State), ∃ (t : State) (data : Data), exec i s = .next t ∧
    t.output = s.output ++ [responseWord (tableStatus i s.toBlock) data]

/-- R109: the phase and stage count after a command that answered `OK`, and after any other answer. -/
def Obligations.PhaseFollowsTable : Prop :=
  ∀ (i : Instr) (s t : State), exec i s = .next t →
    (tableStatus i s.toBlock = .ok → (t.ph, t.sc.toNat) = tableNext i s.toBlock) ∧
    (tableStatus i s.toBlock ≠ .ok → t.ph = s.ph ∧ t.sc = s.sc)

/-- R95: a command that raises changes nothing but the sticky flag of what it raised, and answers with
data 0. -/
def Obligations.RaiseIsPrecise : Prop :=
  ∀ (i : Instr) (s : State),
    (tableStatus i s.toBlock = .operr → exec i s = .next { s with
      err := { s.err with op := true }, output := s.output ++ [responseWord .operr 0#64] }) ∧
    (tableStatus i s.toBlock = .seqerr → exec i s = .next { s with
      err := { s.err with seq := true }, output := s.output ++ [responseWord .seqerr 0#64] }) ∧
    (tableStatus i s.toBlock = .cfgerr → exec i s = .next { s with
      output := s.output ++ [responseWord .cfgerr 0#64] }) ∧
    (tableStatus i s.toBlock = .qfull → exec i s = .next { s with
      err := { s.err with qovf := true }, output := s.output ++ [responseWord .qfull 0#64] })

/-- R98: with an invalid configuration every command but RDCFG and RDSTAT answers `CFGERR` and does
nothing, until a reset; which configurations are valid is R7. -/
def Obligations.InvalidConfigurationDoesNothing : Prop :=
  ∀ s : State,
    (s.cfgErr = false ↔ tableCfgValid s.toBlock) ∧
    (∀ t : State, step s = .next t → noReset (s.input.take 1) = true → t.cfgErr = s.cfgErr) ∧
    ∀ i : Instr, s.cfgErr = true → i ≠ .rdstat → (∀ idx, i ≠ .rdcfg idx) →
      exec i s = .next { s with output := s.output ++ [responseWord .cfgerr 0#64] }

/-- R95: a sticky flag once set stays set under every step but a reset. -/
def Obligations.StickyFlagsClearedOnlyByReset : Prop :=
  ∀ s t : State, step s = .next t → noReset (s.input.take 1) = true →
    (s.err.ill = true → t.err.ill = true) ∧ (s.err.op = true → t.err.op = true) ∧
    (s.err.seq = true → t.err.seq = true) ∧ (s.err.qovf = true → t.err.qovf = true)

/-- R95: over a run without reset, a sticky flag that is clear at the end proves that no command of the
run raised an error of its kind. -/
def Obligations.ClearFlagProvesNoErrorInRun : Prop :=
  ∀ (k : Nat) (s t : State), Host.Core.run Sys2Proof.core k s = .next t →
    noReset (s.input.take k) = true →
    ∃ answers : List ResponseWord, t.output = s.output ++ answers ∧
      (t.err.ill = false → ∀ r ∈ answers, codeField r ≠ 2#4) ∧
      (t.err.op = false → ∀ r ∈ answers, codeField r ≠ 3#4) ∧
      (t.err.seq = false → ∀ r ∈ answers, codeField r ≠ 4#4) ∧
      (t.err.qovf = false → ∀ r ∈ answers, codeField r ≠ 6#4)

/-! ### Reset and the invariant -/

/-- R31, R107: what a reset pulse leaves, whatever the block held and whatever the straps; no response. -/
def Obligations.ResetLeavesResetValues : Prop :=
  ∀ (s : State) (fs : BitVec 32) (l : BitVec 5) (rest : List HostEvent),
    s.input = .reset fs l :: rest →
    ∃ t : State, step s = .next t ∧
      t.q = [] ∧ t.res.new = false ∧ t.ph = .idle ∧ t.sc = 0#5 ∧
      t.err = { ill := false, op := false, seq := false, qovf := false } ∧
      t.cfg = { fs := fs, l := l } ∧ t.par = s.par ∧ t.input = rest ∧ t.output = s.output ∧
      t.status = (if t.cfgValid = true then 0#64 else 0x400#64)

/-- The machine's own reset state satisfies the invariant, its parameters are legal (R6) and every value it
holds is an element of `R`; its straps and parameters are the model's choice (log 5). -/
def Obligations.ResetStateSatisfiesInvariant : Prop :=
  State.reset.toBlock.Inv ∧ State.reset.parLegal = true ∧ State.reset.toBlock.Held

/-- The invariant of the block holds after every step from every state that has it; every value held stays
an element of `R` (R8, R17 to R22); and legal parameters (R6) stay legal, where a reset pulse keeps `N` within `QCAP`. -/
def Obligations.StepKeepsInvariant : Prop :=
  (∀ s t : State, s.toBlock.Inv → step s = .next t → t.toBlock.Inv) ∧
  (∀ s t : State, s.toBlock.Held → step s = .next t → t.toBlock.Held) ∧
  ∀ s t : State, s.parLegal = true → step s = .next t →
    (∀ fs l c, s.input.head? = some (.reset fs l) → s.par.qcap = some c → 2 ^ l.toNat ≤ c) →
    t.parLegal = true

/-! ### Whole-machine rules -/

/-- R32 (column "writable by"), R22, R23, R96, R39: which commands can change which part of the state; the
configuration and the instance parameters are never written by a command, and no instruction sets `ERR.ILL` (an illegal
word spells none). -/
def Obligations.OnlyWritersChangeState : Prop :=
  ∀ (i : Instr) (s t : State), exec i s = .next t →
    t.cfg = s.cfg ∧ t.par = s.par ∧ t.input = s.input ∧
    (t.q ≠ s.q → i.mnemonic ∈ ["FEED", "XFRM", "PROC"]) ∧
    (t.fb ≠ s.fb → i.mnemonic ∈ ["XFRM", "WIN", "PROC"]) ∧
    (t.xb ≠ s.xb → i.mnemonic ∈ ["LDC", "BREV", "STG", "FFT", "PROC"]) ∧
    (t.mb ≠ s.mb → i.mnemonic ∈ ["MAG", "PROC"]) ∧
    (t.res ≠ s.res → i.mnemonic ∈ ["BANDS", "PROC"]) ∧
    (t.ph ≠ s.ph → i.mnemonic ∈ ["XFRM", "WIN", "LDC", "BREV", "FFT", "MAG", "PROC"]) ∧
    (t.sc ≠ s.sc → i.mnemonic ∈ ["XFRM", "WIN", "LDC", "BREV", "STG", "FFT", "PROC"]) ∧
    t.err.ill = s.err.ill ∧
    (t.err.op ≠ s.err.op → i.mnemonic ∈ ["STG", "RDCFG", "RDRES", "RDFB", "RDXR", "RDXI", "RDMB", "RDWIN",
      "RDTWR", "RDTWI"]) ∧
    (t.err.seq ≠ s.err.seq → i.mnemonic ∈ ["WIN", "LDC", "BREV", "STG", "FFT", "MAG", "BAND", "BANDS", "RDFB",
      "RDXR", "RDXI", "RDMB"]) ∧
    (t.err.qovf ≠ s.err.qovf → i.mnemonic ∈ ["FEED"]) ∧
    (t.draws ≠ s.draws → i.mnemonic ∈ ["PROC"])

/-- R22, R24: `RES.NEW` is set by PROC and BANDS that answer `OK`, cleared by a `NOTREADY` PROC, and
otherwise kept. -/
def Obligations.FreshnessFlagRule : Prop :=
  ∀ (i : Instr) (s t : State), exec i s = .next t →
    ((i = .proc ∨ i = .bands) → tableStatus i s.toBlock = .ok → t.res.new = true) ∧
    (i = .proc → tableStatus i s.toBlock = .notready → t.res.new = false) ∧
    (¬ (i = .proc ∧ tableStatus i s.toBlock = .notready) →
      ¬ ((i = .proc ∨ i = .bands) ∧ tableStatus i s.toBlock = .ok) → t.res = s.res)

/-- R21: what an invalid buffer holds cannot be observed. Two machines that differ at most there answer
every step alike and go on differing at most there. That both take the same stale energies after a `NOTREADY` PROC or a
reset is the model's choice (log 6): draws are numbered by a counter, and `SameValid` asks for equal counters. -/
def Obligations.InvalidBuffersUnobservable : Prop :=
  ∀ s t : State, SameValid s.toBlock t.toBlock → s.input = t.input → s.output = t.output →
    ∃ s' t' : State, step s = .next s' ∧ step t = .next t' ∧
      SameValid s'.toBlock t'.toBlock ∧ s'.input = t'.input ∧ s'.output = t'.output

/-- R80 (e): the result of a successful PROC depends on its `N` samples and the configuration alone. -/
def Obligations.ProcHasNoHistory : Prop :=
  ∀ (R : Type) (E : Env R) (a b : Block R), a.cfg = b.cfg → a.par = b.par →
    a.cfgValid = true → a.n ≤ a.q.length → a.n ≤ b.q.length → a.q.take a.n = b.q.take a.n →
    (a.proc E).block.res = (b.proc E).block.res ∧ (a.proc E).reply = (b.proc E).reply

/-- R80 (a), (b), (c), R50: `DRAIN` from a queue of `k` samples gives `k / N` times `OK` and then one
`NOTREADY`, and leaves `k mod N` samples, the last ones. -/
def Obligations.DrainEmptiesQueueByFrames : Prop :=
  ∀ s : State, s.cfgValid = true →
    s.input = (drain s.q.length s.n).map (fun i => .command (encode i)) →
    ∃ t : State, Host.Core.run Sys2Proof.core (drainLength s.q.length s.n) s = .next t ∧
      t.input = [] ∧ t.q = s.q.drop (s.q.length / s.n * s.n) ∧ t.q.length = s.q.length % s.n ∧
      t.output = s.output ++ List.replicate (s.q.length / s.n) (responseWord .ok 0#64) ++
        [responseWord .notready 0#64]

/-- R80 (d): the PROC that answers `OK` after `r` others did (counting from an empty queue) analyses exactly
the samples at positions `r·N .. r·N + N − 1` of the feed order. First for a burst of FEEDs and then PROCs, with what
the queue keeps; then for every interleaving of FEED (`some`) and PROC (`none`) in which no FEED is refused. -/
def Obligations.FramesFollowFeedOrder : Prop :=
  (∀ (s : State) (samples : List Payload) (r : Nat),
    s.cfgValid = true → (∀ c, s.par.qcap = some c → samples.length ≤ c) → s.q = [] →
    (∀ sbits ∈ samples, sampleFits s.par.w sbits = true) → (r + 1) * s.n ≤ samples.length →
    s.input = (feedv samples ++ List.replicate (r + 1) Instr.proc).map (fun i => .command (encode i)) →
    ∃ t : State, Host.Core.run Sys2Proof.core (samples.length + (r + 1)) s = .next t ∧
      t.q = (samples.drop ((r + 1) * s.n)).map (s.sampleOf ·) ∧
      ∀ (i : Nat) (sbits : Payload), i < s.n → samples[r * s.n + i]? = some sbits →
        t.fb[i]? = some (s.num.mul (s.sampleOf sbits) (s.num.hann i s.n))) ∧
  ∀ (s : State) (moves : List (Option Payload)), s.cfgValid = true → s.q = [] →
    (∀ sbits ∈ moves.reduceOption, sampleFits s.par.w sbits = true) →
    s.input = (moves.map feedOrProc ++ [Instr.proc]).map (fun i => .command (encode i)) →
    ∃ (t u : State) (answers : List ResponseWord),
      Host.Core.run Sys2Proof.core moves.length s = .next t ∧ step t = .next u ∧
      t.output = s.output ++ answers ∧ answers.length = moves.length ∧
      ((∀ a ∈ answers, codeField a ≠ 6#4) →
        let r := framesAnalysed moves answers
        t.q = (moves.reduceOption.drop (r * s.n)).map (s.sampleOf ·) ∧
        (t.q.length < s.n → u.output = t.output ++ [responseWord .notready 0#64]) ∧
        (s.n ≤ t.q.length → u.output = t.output ++ [responseWord .ok 0#64] ∧
          ∀ (i : Nat) (sbits : Payload), i < s.n → moves.reduceOption[r * s.n + i]? = some sbits →
            u.fb[i]? = some (s.num.mul (s.sampleOf sbits) (s.num.hann i s.n))))

/-! ### The commands -/

/-- R52: FEED, accepted and refused, in every phase, for every width `W` of a sample.
With legal parameters (R6) no FEED is refused before a frame is queued. -/
def Obligations.FeedAppendsOneSample : Prop :=
  (∀ (W : Nat) (p : Payload), decodeFor W (0x01#8 ++ p) =
    if p >>> W = 0#64 then .ok (.feed p) else .error .mustBeZero) ∧
  ∀ (s : State) (sbits : Payload), s.cfgValid = true →
    (s.parLegal = true → s.q.length < s.n → s.par.qcap ≠ some s.q.length) ∧
    (s.par.qcap ≠ some s.q.length →
      exec (.feed sbits) s = .next { s with
        q := s.q ++ [s.num.dec (sbits.setWidth s.par.w)], output := s.output ++ [responseWord .ok 0#64] }) ∧
    (s.par.qcap = some s.q.length →
      exec (.feed sbits) s = .next { s with
        err := { s.err with qovf := true }, output := s.output ++ [responseWord .qfull 0#64] })

/-- R53: XFRM with and without a frame, in every phase. -/
def Obligations.XfrmExtractsFrame : Prop :=
  decodesZ 0x10#8 .xfrm ∧
  ∀ s : State, s.cfgValid = true →
    (s.n ≤ s.q.length →
      exec .xfrm s = .next { s with
        fb := s.q.take s.n, q := s.q.drop s.n, ph := .frame, sc := 0#5,
        output := s.output ++ [responseWord .ok 0#64] }) ∧
    (s.q.length < s.n →
      exec .xfrm s = .next { s with output := s.output ++ [responseWord .notready 0#64] })

/-- R57: WIN. -/
def Obligations.WinMultipliesByWindow : Prop :=
  decodesZ 0x11#8 .win ∧
  ∀ s : State, s.cfgValid = true →
    (s.ph = .frame → s.fb.length = s.n →
      ∃ fb : List NumR,
        exec .win s = .next { s with
          fb := fb, ph := .windowed, sc := 0#5, output := s.output ++ [responseWord .ok 0#64] } ∧
        fb.length = s.n ∧
        ∀ i x, s.fb[i]? = some x → fb[i]? = some (s.num.mul x (s.num.hann i s.n))) ∧
    (s.ph ≠ .frame →
      exec .win s = .next { s with
        err := { s.err with seq := true }, output := s.output ++ [responseWord .seqerr 0#64] })

/-- R65: LDC, from `FRAME` and from `WINDOWED`. -/
def Obligations.LdcLoadsFrame : Prop :=
  decodesZ 0x12#8 .ldc ∧
  ∀ s : State, s.cfgValid = true →
    (s.ph = .frame ∨ s.ph = .windowed → s.fb.length = s.n →
      exec .ldc s = .next { s with
        xb := s.fb.map fun x => ⟨x, s.num.zero⟩, ph := .loaded, sc := 0#5,
        output := s.output ++ [responseWord .ok 0#64] }) ∧
    (¬ (s.ph = .frame ∨ s.ph = .windowed) →
      exec .ldc s = .next { s with
        err := { s.err with seq := true }, output := s.output ++ [responseWord .seqerr 0#64] })

/-- R66: BREV; entry `i` comes from the entry `j` whose `L`-bit spelling is that of `i` reversed. -/
def Obligations.BrevPermutesByBitReversal : Prop :=
  decodesZ 0x13#8 .brev ∧
  ∀ s : State, s.cfgValid = true →
    (s.ph = .loaded → s.xb.length = s.n →
      ∃ xb : List (Cplx NumR),
        exec .brev s = .next { s with
          xb := xb, ph := .stages, sc := 0#5, output := s.output ++ [responseWord .ok 0#64] } ∧
        xb.length = s.n ∧
        ∀ i j, i < s.n → j < s.n → (∀ k, k < s.logN → j.testBit k = i.testBit (s.logN - 1 - k)) →
          xb[i]? = s.xb[j]?) ∧
    (s.ph ≠ .loaded →
      exec .brev s = .next { s with
        err := { s.err with seq := true }, output := s.output ++ [responseWord .seqerr 0#64] })

/-- R66: `rev_L` reverses the `L`-bit spelling and is an involution on the indices. -/
def Obligations.RevReversesBits : Prop :=
  ∀ l i : Nat, i < 2 ^ l →
    rev l i < 2 ^ l ∧ rev l (rev l i) = i ∧
    ∀ k, k < l → (rev l i).testBit k = i.testBit (l - 1 - k)

/-- R67: STG s performs the butterfly of every pair of its stage with the twiddle of R60. -/
def Obligations.StgAppliesEveryButterfly : Prop :=
  (∀ (W : Nat) (p : Payload), decodeFor W (0x14#8 ++ p) =
    if p.extractLsb' 8 56 = 0#56 then .ok (.stg (p.extractLsb' 0 8).toNat) else .error .mustBeZero) ∧
  ∀ (s : State) (stage : Nat), s.cfgValid = true →
    (1 ≤ stage → stage ≤ s.logN → s.ph = .stages → s.sc.toNat = stage - 1 → s.xb.length = s.n →
      ∃ xb : List (Cplx NumR),
        exec (.stg stage) s = .next { s with
          xb := xb, sc := BitVec.ofNat 5 stage, output := s.output ++ [responseWord .ok 0#64] } ∧
        xb.length = s.n ∧
        ∀ (c j : Nat) (u v : Cplx NumR), (c + 1) * 2 ^ stage ≤ s.n → j < 2 ^ stage / 2 →
          s.xb[c * 2 ^ stage + j]? = some u →
          s.xb[c * 2 ^ stage + j + 2 ^ stage / 2]? = some v →
          let w : Cplx NumR := ⟨s.num.twre (j <<< (s.logN - stage)) s.n,
            s.num.twim (j <<< (s.logN - stage)) s.n⟩
          xb[c * 2 ^ stage + j]? = some (butterfly s.num.toArith u v w).1 ∧
          xb[c * 2 ^ stage + j + 2 ^ stage / 2]? = some (butterfly s.num.toArith u v w).2) ∧
    (stage < 1 ∨ s.logN < stage →
      exec (.stg stage) s = .next { s with
        err := { s.err with op := true }, output := s.output ++ [responseWord .operr 0#64] }) ∧
    (1 ≤ stage → stage ≤ s.logN → (s.ph ≠ .stages ∨ s.sc.toNat ≠ stage - 1) →
      exec (.stg stage) s = .next { s with
        err := { s.err with seq := true }, output := s.output ++ [responseWord .seqerr 0#64] })

/-- R41, R67: the butterflies of a stage may be done one after another in place, in any order, over any
number system: the result is the stage. -/
def Obligations.ButterflyOrderIsFree : Prop :=
  ∀ (R : Type) (K : Arith R) (l s : Nat) (xs : List (Cplx R)) (d : Nat → Cplx R)
    (order : List (Nat × Nat)),
    1 ≤ s → s ≤ l → xs.length = 2 ^ l → order.Perm (stagePairs l s) →
    order.foldl (butterflyInPlace K l s) xs =
      tabulate (2 ^ l) (stageAt K l s fun i => xs.getD i (d i))

/-- R68: FFT leaves the block as `BREV ; STG 1 ; … ; STG L` does, with one response. -/
def Obligations.FftRunsAllStages : Prop :=
  decodesZ 0x15#8 .fft ∧
  ∀ s : State, s.cfgValid = true →
    (s.ph = .loaded →
      ∃ (xb : List (Cplx NumR)) (t : State),
        exec .fft s = .next { s with
          xb := xb, ph := .stages, sc := s.cfg.l, output := s.output ++ [responseWord .ok 0#64] } ∧
        execAll (.brev :: (List.range s.logN).map fun k => .stg (k + 1)) s = .next t ∧
        t.toBlock = { s.toBlock with xb := xb, ph := .stages, sc := s.cfg.l } ∧
        t.output = s.output ++ List.replicate (s.logN + 1) (responseWord .ok 0#64)) ∧
    (s.ph ≠ .loaded →
      exec .fft s = .next { s with
        err := { s.err with seq := true }, output := s.output ++ [responseWord .seqerr 0#64] })

/-- R69, for every instance whose number system has NL-TWRED: after BREV and the stages `1 .. s`, block `c`
holds the reference transform of its sub-sequence of the loaded input. -/
def Obligations.StagesComputeReferenceTransform : Prop :=
  ∀ (R : Type) (E : Env R) (b : Block R), E.num.NLTwRed → b.cfgValid = true → b.ph = .loaded →
    b.xb.length = b.n →
    ∀ x : Nat → Cplx R, (∀ i z, b.xb[i]? = some z → x i = z) →
    ∀ s c r : Nat, s ≤ b.logN → c < 2 ^ (b.logN - s) → r < 2 ^ s →
      ((List.range s).foldl (fun b k => (b.stg E (k + 1)).block) (b.brev E).block).xb[c * 2 ^ s + r]? =
        some (refTransform E.num s (fun t => x (rev (b.logN - s) c + t * 2 ^ (b.logN - s))) r)

/-- R68, R69: `XB <- T(XB)` by FFT, for every instance whose number system has NL-TWRED. -/
def Obligations.FftLeavesReferenceTransform : Prop :=
  ∀ (R : Type) (E : Env R) (b : Block R), E.num.NLTwRed → b.cfgValid = true → b.ph = .loaded →
    b.xb.length = b.n →
    ∀ x : Nat → Cplx R, (∀ i z, b.xb[i]? = some z → x i = z) →
      (b.fft E).reply = ⟨.ok, .int 0⟩ ∧
      (b.fft E).block =
        { b with xb := tabulate b.n (refTransform E.num b.logN x), ph := .stages, sc := b.cfg.l }

/-- R71: MAG. -/
def Obligations.MagComputesModuli : Prop :=
  decodesZ 0x16#8 .mag ∧
  ∀ s : State, s.cfgValid = true →
    (s.ph = .stages → s.sc = s.cfg.l → s.xb.length = s.n →
      exec .mag s = .next { s with
        mb := (s.xb.take (s.n / 2)).map fun z => s.num.mag z.re z.im, ph := .mags,
        output := s.output ++ [responseWord .ok 0#64] }) ∧
    (s.ph ≠ .stages ∨ s.sc ≠ s.cfg.l →
      exec .mag s = .next { s with
        err := { s.err with seq := true }, output := s.output ++ [responseWord .seqerr 0#64] })

/-- R73, over every number system: the clamped loop is the mean over the bins of the spectrum between
the two bin indices, both included, ascending; `zero` where there is none. -/
def Obligations.BandEnergyIsMeanOfBins : Prop :=
  ∀ (R : Type) (K : Arith R) (fs l : Nat) (mb : Nat → R) (lo hi : Int), 1 ≤ fs →
    bandE K fs l mb lo hi = bandMean K fs (2 ^ l) mb lo hi

/-- R76: BAND, for every pair of operands. -/
def Obligations.BandAnswersBandEnergy : Prop :=
  (∀ (W : Nat) (p : Payload), decodeFor W (0x17#8 ++ p) =
    .ok (.band (p.extractLsb' 0 32).toInt (p.extractLsb' 32 32).toInt)) ∧
  ∀ (s : State) (lo hi : Int), s.cfgValid = true →
    (s.ph = .mags → s.mb.length = s.n / 2 →
      ∀ mb : Nat → NumR, (∀ i x, s.mb[i]? = some x → mb i = x) →
        exec (.band lo hi) s = .next { s with
          output := s.output ++ [responseWord .ok
            ((s.num.enc (bandMean s.num.toArith s.fs s.n mb lo hi)).setWidth 64)] }) ∧
    (s.ph ≠ .mags →
      exec (.band lo hi) s = .next { s with
        err := { s.err with seq := true }, output := s.output ++ [responseWord .seqerr 0#64] })

/-- R75, R77: BANDS. -/
def Obligations.BandsWritesResult : Prop :=
  decodesZ 0x18#8 .bands ∧
  ∀ s : State, s.cfgValid = true →
    (s.ph = .mags → s.mb.length = s.n / 2 →
      ∀ mb : Nat → NumR, (∀ i x, s.mb[i]? = some x → mb i = x) →
        exec .bands s = .next { s with
          res := { bass := bandMean s.num.toArith s.fs s.n mb 20 150,
                   mid := bandMean s.num.toArith s.fs s.n mb 150 4000,
                   treble := bandMean s.num.toArith s.fs s.n mb 4000 20000,
                   new := true },
          output := s.output ++ [responseWord .ok 0#64] }) ∧
    (s.ph ≠ .mags →
      exec .bands s = .next { s with
        err := { s.err with seq := true }, output := s.output ++ [responseWord .seqerr 0#64] })

/-- R79: PROC with a frame does what `XFRM ; WIN ; LDC ; FFT ; MAG ; BANDS` do, with one response. -/
def Obligations.ProcRunsUnitCommands : Prop :=
  ∀ s : State, s.cfgValid = true → s.n ≤ s.q.length →
    ∃ t u : State, exec .proc s = .next t ∧
      execAll [.xfrm, .win, .ldc, .fft, .mag, .bands] s = .next u ∧
      t.toBlock = u.toBlock ∧ t.input = s.input ∧ t.output = s.output ++ [responseWord .ok 0#64] ∧
      u.output = s.output ++ List.replicate 6 (responseWord .ok 0#64)

/-- R79, written out: what a successful PROC leaves, entry by entry, and what it leaves alone. -/
def Obligations.ProcProcessesOneFrame : Prop :=
  ∀ s : State, s.cfgValid = true → s.n ≤ s.q.length →
    ∃ (fb mb : List NumR) (xb : List (Cplx NumR)) (bass mid treble : NumR),
      exec .proc s = .next { s with
        q := s.q.drop s.n, fb := fb, xb := xb, mb := mb,
        res := { bass := bass, mid := mid, treble := treble, new := true },
        ph := .mags, sc := s.cfg.l, output := s.output ++ [responseWord .ok 0#64] } ∧
      fb.length = s.n ∧ xb.length = s.n ∧ mb.length = s.n / 2 ∧
      ∀ x : Nat → NumR, (∀ i v, s.q[i]? = some v → x i = v) →
        (∀ i, i < s.n → fb[i]? = some (s.num.mul (x i) (s.num.hann i s.n))) ∧
        (∀ i, i < s.n → xb[i]? = some
          (stagesUpTo s.num.toArith s.logN (loadedAt s.num.toArith s.logN x) s.logN i)) ∧
        (∀ i, i < s.n / 2 → mb[i]? = some (spectrumAt s.num.toArith s.logN x i)) ∧
        bass = frameBand s.num.toArith s.fs s.logN x 20 150 ∧
        mid = frameBand s.num.toArith s.fs s.logN x 150 4000 ∧
        treble = frameBand s.num.toArith s.fs s.logN x 4000 20000

/-- R79: PROC without a frame marks the result stale (three draws, whatever they are) and nothing else. -/
def Obligations.ProcWithoutFrameMarksStale : Prop :=
  ∀ s : State, s.cfgValid = true → s.q.length < s.n →
    ∃ (bass mid treble : NumR) (draws : Nat),
      exec .proc s = .next { s with
        res := { bass := bass, mid := mid, treble := treble, new := false }, draws := draws,
        output := s.output ++ [responseWord .notready 0#64] }

/-- R79 with R61, R69, for every instance whose number system has NL-TWRED: the spectrum a successful
PROC leaves is the reference transform of the windowed frame. -/
def Obligations.ProcLeavesReferenceSpectrum : Prop :=
  ∀ (R : Type) (E : Env R) (b : Block R), E.num.NLTwRed → b.cfgValid = true → b.n ≤ b.q.length →
    ∀ x : Nat → R, (∀ i v, b.q[i]? = some v → x i = v) →
      (b.proc E).reply = ⟨.ok, .int 0⟩ ∧
      (b.proc E).block.fb = tabulate b.n (fun i => E.num.mul (x i) (E.num.hann i b.n)) ∧
      (b.proc E).block.xb = tabulate b.n (refTransform E.num b.logN
        fun i => ⟨E.num.mul (x i) (E.num.hann i b.n), E.num.zero⟩) ∧
      (b.proc E).block.mb = tabulate (b.n / 2) (fun i =>
        let z := refTransform E.num b.logN
          (fun i => ⟨E.num.mul (x i) (E.num.hann i b.n), E.num.zero⟩) i
        E.num.mag z.re z.im) ∧
      (b.proc E).block.q = b.q.drop b.n ∧ (b.proc E).block.ph = .mags ∧
      (b.proc E).block.sc = b.cfg.l ∧ (b.proc E).block.res.new = true ∧
      (b.proc E).block.err = b.err

/-! ### Read-back -/

/-- R84: RDCFG, also with an invalid configuration. -/
def Obligations.RdcfgReadsConfiguration : Prop :=
  decodesR 0x20#8 .rdcfg ∧
  ∀ (s : State) (idx : Nat),
    exec (.rdcfg 0) s = .next { s with
      output := s.output ++ [responseWord .ok (s.cfg.fs.setWidth 64)] } ∧
    exec (.rdcfg 1) s = .next { s with
      output := s.output ++ [responseWord .ok (BitVec.ofNat 64 (2 ^ s.cfg.l.toNat))] } ∧
    exec (.rdcfg 2) s = .next { s with
      output := s.output ++ [responseWord .ok (s.cfg.l.setWidth 64)] } ∧
    (2 < idx → exec (.rdcfg idx) s = .next { s with
      err := { s.err with op := true }, output := s.output ++ [responseWord .operr 0#64] })

/-- R26, R85: RDSTAT, bit by bit, also with an invalid configuration; reading clears nothing. -/
def Obligations.RdstatReadsStatusFields : Prop :=
  decodesZ 0x21#8 .rdstat ∧
  ∀ s : State, ∃ v : Data,
    exec .rdstat s = .next { s with output := s.output ++ [responseWord .ok v] } ∧
    (v.extractLsb' 0 3).toNat = (match s.ph with
      | .idle => 0 | .frame => 1 | .windowed => 2 | .loaded => 3 | .stages => 4 | .mags => 5) ∧
    v.extractLsb' 3 5 = s.sc ∧ v.getLsbD 8 = s.res.new ∧
    v.getLsbD 9 = (s.cfgValid && decide (s.n ≤ s.q.length)) ∧ v.getLsbD 10 = !s.cfgValid ∧
    v.getLsbD 11 = s.err.ill ∧ v.getLsbD 12 = s.err.op ∧ v.getLsbD 13 = s.err.seq ∧
    v.getLsbD 14 = s.err.qovf ∧ v.extractLsb' 15 49 = 0#49

/-- R86: RDQLEN, saturated. -/
def Obligations.RdqlenReadsQueueLength : Prop :=
  decodesZ 0x22#8 .rdqlen ∧ needsConfiguration .rdqlen ∧
  ∀ s : State, s.cfgValid = true →
    ∃ v : Data, exec .rdqlen s = .next { s with output := s.output ++ [responseWord .ok v] } ∧
      (s.q.length < 2 ^ 64 → v.toNat = s.q.length) ∧
      (2 ^ 64 ≤ s.q.length → v = BitVec.allOnes 64)

/-- R87: RDRES in every phase; reading does not clear `RES.NEW`. -/
def Obligations.RdresReadsResult : Prop :=
  decodesR 0x23#8 .rdres ∧
  (∀ idx, needsConfiguration (.rdres idx)) ∧
  ∀ (s : State) (idx : Nat), s.cfgValid = true →
    exec (.rdres 0) s = .next { s with
      output := s.output ++ [responseWord .ok ((s.num.enc s.res.bass).setWidth 64)] } ∧
    exec (.rdres 1) s = .next { s with
      output := s.output ++ [responseWord .ok ((s.num.enc s.res.mid).setWidth 64)] } ∧
    exec (.rdres 2) s = .next { s with
      output := s.output ++ [responseWord .ok ((s.num.enc s.res.treble).setWidth 64)] } ∧
    exec (.rdres 3) s = .next { s with
      output := s.output ++ [responseWord .ok (if s.res.new then 1#64 else 0#64)] } ∧
    (3 < idx → exec (.rdres idx) s = .next { s with
      err := { s.err with op := true }, output := s.output ++ [responseWord .operr 0#64] })

/-- R88: RDFB. -/
def Obligations.RdfbReadsFrameEntry : Prop :=
  decodesR 0x24#8 .rdfb ∧
  (∀ idx, needsConfiguration (.rdfb idx)) ∧
  ∀ (s : State) (idx : Nat), s.cfgValid = true →
    (s.n ≤ idx → exec (.rdfb idx) s = .next { s with
      err := { s.err with op := true }, output := s.output ++ [responseWord .operr 0#64] }) ∧
    (idx < s.n → s.ph = .idle → exec (.rdfb idx) s = .next { s with
      err := { s.err with seq := true }, output := s.output ++ [responseWord .seqerr 0#64] }) ∧
    (idx < s.n → s.ph ≠ .idle → ∀ x, s.fb[idx]? = some x →
      exec (.rdfb idx) s = .next { s with
        output := s.output ++ [responseWord .ok ((s.num.enc x).setWidth 64)] })

/-- R89, R90: RDXR and RDXI. -/
def Obligations.RdxReadsSpectrumEntry : Prop :=
  decodesR 0x25#8 .rdxr ∧ decodesR 0x26#8 .rdxi ∧
  (∀ idx, needsConfiguration (.rdxr idx) ∧ needsConfiguration (.rdxi idx)) ∧
  ∀ (s : State) (idx : Nat), s.cfgValid = true →
    (s.n ≤ idx → ∀ i : Instr, i = .rdxr idx ∨ i = .rdxi idx → exec i s = .next { s with
      err := { s.err with op := true }, output := s.output ++ [responseWord .operr 0#64] }) ∧
    (idx < s.n → s.ph ≠ .loaded → s.ph ≠ .stages → s.ph ≠ .mags →
      ∀ i : Instr, i = .rdxr idx ∨ i = .rdxi idx → exec i s = .next { s with
        err := { s.err with seq := true }, output := s.output ++ [responseWord .seqerr 0#64] }) ∧
    (idx < s.n → s.ph = .loaded ∨ s.ph = .stages ∨ s.ph = .mags → ∀ z, s.xb[idx]? = some z →
      exec (.rdxr idx) s = .next { s with
        output := s.output ++ [responseWord .ok ((s.num.enc z.re).setWidth 64)] } ∧
      exec (.rdxi idx) s = .next { s with
        output := s.output ++ [responseWord .ok ((s.num.enc z.im).setWidth 64)] })

/-- R91: RDMB. -/
def Obligations.RdmbReadsMagnitudeEntry : Prop :=
  decodesR 0x27#8 .rdmb ∧
  (∀ idx, needsConfiguration (.rdmb idx)) ∧
  ∀ (s : State) (idx : Nat), s.cfgValid = true →
    (s.n / 2 ≤ idx → exec (.rdmb idx) s = .next { s with
      err := { s.err with op := true }, output := s.output ++ [responseWord .operr 0#64] }) ∧
    (idx < s.n / 2 → s.ph ≠ .mags → exec (.rdmb idx) s = .next { s with
      err := { s.err with seq := true }, output := s.output ++ [responseWord .seqerr 0#64] }) ∧
    (idx < s.n / 2 → s.ph = .mags → ∀ x, s.mb[idx]? = some x →
      exec (.rdmb idx) s = .next { s with
        output := s.output ++ [responseWord .ok ((s.num.enc x).setWidth 64)] })

/-- R92, R93, R94: RDWIN, RDTWR, RDTWI read the ROMs in every phase. -/
def Obligations.RomReadsInEveryPhase : Prop :=
  decodesR 0x28#8 .rdwin ∧ decodesR 0x29#8 .rdtwr ∧ decodesR 0x2A#8 .rdtwi ∧
  (∀ idx, needsConfiguration (.rdwin idx) ∧ needsConfiguration (.rdtwr idx) ∧ needsConfiguration (.rdtwi idx)) ∧
  ∀ (s : State) (idx : Nat), s.cfgValid = true →
    (idx < s.n → exec (.rdwin idx) s = .next { s with
      output := s.output ++ [responseWord .ok ((s.num.enc (s.num.hann idx s.n)).setWidth 64)] }) ∧
    (s.n ≤ idx → exec (.rdwin idx) s = .next { s with
      err := { s.err with op := true }, output := s.output ++ [responseWord .operr 0#64] }) ∧
    (idx < s.n / 2 →
      exec (.rdtwr idx) s = .next { s with
        output := s.output ++ [responseWord .ok ((s.num.enc (s.num.twre idx s.n)).setWidth 64)] } ∧
      exec (.rdtwi idx) s = .next { s with
        output := s.output ++ [responseWord .ok ((s.num.enc (s.num.twim idx s.n)).setWidth 64)] }) ∧
    (s.n / 2 ≤ idx → ∀ i : Instr, i = .rdtwr idx ∨ i = .rdtwi idx → exec i s = .next { s with
      err := { s.err with op := true }, output := s.output ++ [responseWord .operr 0#64] })

/-! ### The units as arithmetic -/

/-- R72: the bin mapper. -/
def Obligations.BinIndexProperties : Prop :=
  ∀ fs l : Nat, 1 ≤ fs →
    (∀ f g : Int, f ≤ g → binIndex fs l f ≤ binIndex fs l g) ∧
    binIndex fs l 0 = 0 ∧ binIndex fs l fs = 2 ^ l ∧
    (∀ f b : Int, binIndex fs l f = b ↔ b * fs ≤ f * 2 ^ l ∧ f * 2 ^ l < (b + 1) * fs) ∧
    (1 ≤ l → ∀ f : Int, binIndex fs l f ≤ 2 ^ l / 2 - 1 ↔ 2 * f < fs)

/-- R74 (b), (c), (e), over every number system: when a band is empty, and what one bin gives. -/
def Obligations.BandEnergyCornerCases : Prop :=
  ∀ (R : Type) (K : Arith R) (fs l : Nat) (mb : Nat → R) (lo hi : Int), 1 ≤ fs → 1 ≤ l →
    (binIndex fs l hi < binIndex fs l lo ∨ binIndex fs l hi < 0 ∨ 2 ^ l / 2 - 1 < binIndex fs l lo →
      bandE K fs l mb lo hi = K.zero) ∧
    (∀ b : Nat, b < 2 ^ l / 2 → binIndex fs l lo = b → binIndex fs l hi = b →
      bandE K fs l mb lo hi = K.divn (K.add K.zero (mb b)) 1)

/-- R74 (g), exact reals: a band's value lies between any bounds of its bins. -/
def Obligations.ExactBandEnergyIsBetween : Prop :=
  ∀ (fs l : Nat) (mb : Nat → ℝ) (lo hi : Int) (small large : ℝ), 1 ≤ fs →
    bandBins fs (2 ^ l) lo hi ≠ [] →
    (∀ b ∈ bandBins fs (2 ^ l) lo hi, small ≤ mb b ∧ mb b ≤ large) →
    small ≤ bandE exact fs l mb lo hi ∧ bandE exact fs l mb lo hi ≤ large

/-- R33, R42, R60: every index the sequencer makes is legal. -/
def Obligations.SequencerIndicesInRange : Prop :=
  ∀ l s : Nat, 1 ≤ s → s ≤ l →
    (∀ i, rev l i < 2 ^ l) ∧
    (∀ j, j < 2 ^ s / 2 → twiddleAddr l s j < 2 ^ l / 2) ∧
    (∀ c j, (c, j) ∈ stagePairs l s → c * 2 ^ s + j + 2 ^ s / 2 < 2 ^ l) ∧
    (∀ (fs : Nat) (lo hi : Int), binStart fs l lo ≤ binEnd fs l hi →
      0 ≤ binStart fs l lo ∧ binEnd fs l hi < 2 ^ l / 2)

/-- R10: the reference instance has every named law. -/
def Obligations.ExactHasNamedLaws : Prop :=
  exact.NLZero (fun _ => True) ∧ exact.NLEdge ∧ exact.NLSym ∧ exact.NLTw0 ∧ exact.NLTwRed ∧
  exact.NLComm ∧ exact.NLMagPos (fun x => x < 0)

/-- R55 (a) to (d): the exact window of `N = 2^l` entries. -/
def Obligations.ExactWindowProperties : Prop :=
  ∀ l : Nat, 1 ≤ l →
    exact.hann 0 (2 ^ l) = 0 ∧ exact.hann (2 ^ l - 1) (2 ^ l) = 0 ∧
    (∀ i, i < 2 ^ l → exact.hann i (2 ^ l) = exact.hann (2 ^ l - 1 - i) (2 ^ l)) ∧
    (∀ i, i < 2 ^ l → 0 ≤ exact.hann i (2 ^ l) ∧ exact.hann i (2 ^ l) < 1) ∧
    (2 ≤ l → ∑ i ∈ Finset.range (2 ^ l), exact.hann i (2 ^ l) = ((2 : ℝ) ^ l - 1) / 2) ∧
    (l = 1 → ∀ i, i < 2 → exact.hann i 2 = 0)

/-- R62 (b): the reference transform over the reals is the discrete Fourier transform. -/
def Obligations.ExactTransformIsDft : Prop :=
  ∀ (l k : Nat) (x : Nat → Cplx ℝ), k < 2 ^ l →
    toComplex (refTransform exact l x k) = dft (2 ^ l) x k

/-- R62 (d), (e): the transform of a constant, and of a real sequence. -/
def Obligations.ExactTransformOfConstantAndReal : Prop :=
  ∀ (l : Nat) (x : Nat → Cplx ℝ),
    (∀ c : ℝ, (∀ t, t < 2 ^ l → x t = ⟨c, 0⟩) →
      refTransform exact l x 0 = ⟨2 ^ l * c, 0⟩ ∧
      ∀ k, 1 ≤ k → k < 2 ^ l → refTransform exact l x k = ⟨0, 0⟩) ∧
    ((∀ t, t < 2 ^ l → (x t).im = 0) → ∀ k, 1 ≤ k → k < 2 ^ l →
      (refTransform exact l x (2 ^ l - k)).re = (refTransform exact l x k).re ∧
      (refTransform exact l x (2 ^ l - k)).im = -(refTransform exact l x k).im)

/-- R62 (c), R81 (a), for every number system with NL-ZERO: an all-zero
frame gives zeros everywhere. -/
def Obligations.AllZeroFrameGivesZeros : Prop :=
  ∀ (R : Type) (K : Arith R) (finite : R → Prop), K.NLZero finite →
    ∀ (fs l : Nat) (lo hi : Int), 1 ≤ l →
      (∀ i, i < 2 ^ l → windowAt K (2 ^ l) (fun _ => K.zero) i = K.zero) ∧
      (∀ i, i < 2 ^ l → stagesUpTo K l (loadedAt K l fun _ => K.zero) l i = ⟨K.zero, K.zero⟩) ∧
      (∀ i, i < 2 ^ l / 2 → spectrumAt K l (fun _ => K.zero) i = K.zero) ∧
      frameBand K fs l (fun _ => K.zero) lo hi = K.zero

/-- R81 (b): bin 0 of a windowed constant frame over the reals. -/
def Obligations.ExactConstantFrameBinZero : Prop :=
  ∀ (l : Nat) (c : ℝ), 2 ≤ l → spectrumAt exact l (fun _ => c) 0 = |c| * ((2 : ℝ) ^ l - 1) / 2
end

