-- ==== Sys2Proof/Laws/Decode.lean ====
section
/-! SUPPORT. The fields of a command word laid out as `op ++ payload` (R44), and what each payload format
reads (R45), so that no later proof opens the decoder's bit arithmetic. -/

namespace Sys2Proof

theorem opField_append (op : BitVec 8) (p : Payload) : opField (op ++ p) = op := by
  apply BitVec.eq_of_getLsbD_eq
  intro i hi
  simp only [opField, BitVec.getLsbD_extractLsb', BitVec.getLsbD_append, hi, decide_true, Bool.true_and]
  rw [if_neg (by omega)]
  congr 1
  omega

theorem payloadField_append (op : BitVec 8) (p : Payload) : payloadField (op ++ p) = p := by
  apply BitVec.eq_of_getLsbD_eq
  intro i hi
  simp only [payloadField, BitVec.getLsbD_extractLsb', BitVec.getLsbD_append, hi, decide_true, Bool.true_and,
    Nat.zero_add, if_true]

/-- A word is its two fields. -/
theorem eq_append_fields (w : CommandWord) : w = opField w ++ payloadField w := by
  apply BitVec.eq_of_getLsbD_eq
  intro i hi
  simp only [opField, payloadField, BitVec.getLsbD_extractLsb', BitVec.getLsbD_append]
  by_cases h : i < 64
  · simp [h]
  · simp only [h, if_false]
    have h1 : i - 64 < 8 := by omega
    have h2 : 64 + (i - 64) = i := by omega
    simp [h1, h2]

/-- The bits from `k` upwards are all 0. -/
theorem ushiftRight_eq_zero_iff (p : Payload) (k n : Nat) (h : k + n = 64) :
    p >>> k = 0#64 ↔ p.extractLsb' k n = 0#n := by
  constructor
  · intro hp
    apply BitVec.eq_of_getLsbD_eq
    intro i hi
    have := congrArg (fun v => BitVec.getLsbD v i) hp
    simp only [BitVec.getLsbD_ushiftRight, BitVec.getLsbD_zero] at this
    simp [this, hi]
  · intro hp
    apply BitVec.eq_of_getLsbD_eq
    intro i hi
    have := congrArg (fun v => BitVec.getLsbD v i) hp
    simp only [BitVec.getLsbD_extractLsb', BitVec.getLsbD_zero] at this
    simp only [BitVec.getLsbD_ushiftRight, BitVec.getLsbD_zero]
    by_cases hn : i < n
    · simpa [hn] using this
    · exact BitVec.getLsbD_of_ge _ _ (by omega)

/-- The low `k` bits of a payload, read as the formats read them. -/
theorem setWidth_eq_extractLsb' (p : Payload) (k : Nat) : p.setWidth k = p.extractLsb' 0 k := by
  apply BitVec.eq_of_getLsbD_eq
  intro i hi
  simp [hi]

theorem formatZ_eq (p : Payload) (i : Instr) :
    formatZ p i = if p = 0#64 then .ok i else .error .mustBeZero := by
  simp [formatZ, lowOperand]

/-- A payload whose bits from `k` upwards are 0 is the extension of its low `k` bits. -/
theorem setWidth_setWidth_of_ushiftRight (p : Payload) (k : Nat) (h : p >>> k = 0#64) :
    (p.setWidth k).setWidth 64 = p := by
  apply BitVec.eq_of_getLsbD_eq
  intro i hi
  by_cases hk : i < k
  · simp [hi, hk]
  · have := congrArg (fun v => BitVec.getLsbD v (i - k)) h
    simp only [BitVec.getLsbD_ushiftRight, BitVec.getLsbD_zero, Nat.add_sub_cancel' (Nat.le_of_not_lt hk)] at this
    simp [hk, this]

/-- The bits from `k` upwards are 0 iff the number fits `k` bits. -/
theorem ushiftRight_eq_zero_iff_lt (p : Payload) (k : Nat) : p >>> k = 0#64 ↔ p.toNat < 2 ^ k := by
  rw [← BitVec.toNat_inj, BitVec.toNat_ushiftRight, Nat.shiftRight_eq_div_pow]
  simp [Nat.div_eq_zero_iff]

theorem formatS_eq (W : Nat) (p : Payload) (build : Payload → Instr) :
    formatS W p build = if p >>> W = 0#64 then .ok (build p) else .error .mustBeZero := by
  by_cases h : p >>> W = 0#64
  · simp [formatS, lowOperand, h, setWidth_setWidth_of_ushiftRight p W h]
  · simp [formatS, lowOperand, h]

theorem formatG_eq (p : Payload) (build : Nat → Instr) :
    formatG p build =
      if p.extractLsb' 8 56 = 0#56 then .ok (build (p.extractLsb' 0 8).toNat) else .error .mustBeZero := by
  simp only [formatG, lowOperand, ← ushiftRight_eq_zero_iff p 8 56 rfl, setWidth_eq_extractLsb']

theorem formatR_eq (p : Payload) (build : Nat → Instr) :
    formatR p build =
      if p.extractLsb' 32 32 = 0#32 then .ok (build (p.extractLsb' 0 32).toNat) else .error .mustBeZero := by
  simp only [formatR, lowOperand, ← ushiftRight_eq_zero_iff p 32 32 rfl, setWidth_eq_extractLsb']

end Sys2Proof
end

