-- ==== Sys2Proof/Laws/State.lean ====
section
/-! SUPPORT. One lemma per field per update of the block, so that no later proof unfolds a record update;
and the same for the derived configuration, for answers and for the machine around the block. -/

namespace Sys2Proof.Machine

variable {R : Type}

@[simp] theorem pushSample_q (v : R) (b : Block R) :
    (b.pushSample v).q = b.q ++ [v] := rfl
@[simp] theorem pushSample_fb (v : R) (b : Block R) :
    (b.pushSample v).fb = b.fb := rfl
@[simp] theorem pushSample_xb (v : R) (b : Block R) :
    (b.pushSample v).xb = b.xb := rfl
@[simp] theorem pushSample_mb (v : R) (b : Block R) :
    (b.pushSample v).mb = b.mb := rfl
@[simp] theorem pushSample_res (v : R) (b : Block R) :
    (b.pushSample v).res = b.res := rfl
@[simp] theorem pushSample_ph (v : R) (b : Block R) :
    (b.pushSample v).ph = b.ph := rfl
@[simp] theorem pushSample_sc (v : R) (b : Block R) :
    (b.pushSample v).sc = b.sc := rfl
@[simp] theorem pushSample_err (v : R) (b : Block R) :
    (b.pushSample v).err = b.err := rfl
@[simp] theorem pushSample_cfg (v : R) (b : Block R) :
    (b.pushSample v).cfg = b.cfg := rfl
@[simp] theorem pushSample_par (v : R) (b : Block R) :
    (b.pushSample v).par = b.par := rfl
@[simp] theorem pushSample_draws (v : R) (b : Block R) :
    (b.pushSample v).draws = b.draws := rfl
@[simp] theorem pushSample_logN (v : R) (b : Block R) :
    (b.pushSample v).logN = b.logN := rfl
@[simp] theorem pushSample_n (v : R) (b : Block R) :
    (b.pushSample v).n = b.n := rfl
@[simp] theorem pushSample_fs (v : R) (b : Block R) :
    (b.pushSample v).fs = b.fs := rfl
@[simp] theorem pushSample_cfgValid (v : R) (b : Block R) :
    (b.pushSample v).cfgValid = b.cfgValid := rfl
@[simp] theorem pushSample_cfgErr (v : R) (b : Block R) :
    (b.pushSample v).cfgErr = b.cfgErr := rfl

@[simp] theorem extractFrame_q (b : Block R) :
    (b.extractFrame).q = b.q.drop b.n := rfl
@[simp] theorem extractFrame_fb (b : Block R) :
    (b.extractFrame).fb = b.q.take b.n := rfl
@[simp] theorem extractFrame_xb (b : Block R) :
    (b.extractFrame).xb = b.xb := rfl
@[simp] theorem extractFrame_mb (b : Block R) :
    (b.extractFrame).mb = b.mb := rfl
@[simp] theorem extractFrame_res (b : Block R) :
    (b.extractFrame).res = b.res := rfl
@[simp] theorem extractFrame_ph (b : Block R) :
    (b.extractFrame).ph = b.ph := rfl
@[simp] theorem extractFrame_sc (b : Block R) :
    (b.extractFrame).sc = b.sc := rfl
@[simp] theorem extractFrame_err (b : Block R) :
    (b.extractFrame).err = b.err := rfl
@[simp] theorem extractFrame_cfg (b : Block R) :
    (b.extractFrame).cfg = b.cfg := rfl
@[simp] theorem extractFrame_par (b : Block R) :
    (b.extractFrame).par = b.par := rfl
@[simp] theorem extractFrame_draws (b : Block R) :
    (b.extractFrame).draws = b.draws := rfl
@[simp] theorem extractFrame_logN (b : Block R) :
    (b.extractFrame).logN = b.logN := rfl
@[simp] theorem extractFrame_n (b : Block R) :
    (b.extractFrame).n = b.n := rfl
@[simp] theorem extractFrame_fs (b : Block R) :
    (b.extractFrame).fs = b.fs := rfl
@[simp] theorem extractFrame_cfgValid (b : Block R) :
    (b.extractFrame).cfgValid = b.cfgValid := rfl
@[simp] theorem extractFrame_cfgErr (b : Block R) :
    (b.extractFrame).cfgErr = b.cfgErr := rfl

@[simp] theorem writeFb_q (f : Nat → R) (b : Block R) :
    (b.writeFb f).q = b.q := rfl
@[simp] theorem writeFb_fb (f : Nat → R) (b : Block R) :
    (b.writeFb f).fb = tabulate b.n f := rfl
@[simp] theorem writeFb_xb (f : Nat → R) (b : Block R) :
    (b.writeFb f).xb = b.xb := rfl
@[simp] theorem writeFb_mb (f : Nat → R) (b : Block R) :
    (b.writeFb f).mb = b.mb := rfl
@[simp] theorem writeFb_res (f : Nat → R) (b : Block R) :
    (b.writeFb f).res = b.res := rfl
@[simp] theorem writeFb_ph (f : Nat → R) (b : Block R) :
    (b.writeFb f).ph = b.ph := rfl
@[simp] theorem writeFb_sc (f : Nat → R) (b : Block R) :
    (b.writeFb f).sc = b.sc := rfl
@[simp] theorem writeFb_err (f : Nat → R) (b : Block R) :
    (b.writeFb f).err = b.err := rfl
@[simp] theorem writeFb_cfg (f : Nat → R) (b : Block R) :
    (b.writeFb f).cfg = b.cfg := rfl
@[simp] theorem writeFb_par (f : Nat → R) (b : Block R) :
    (b.writeFb f).par = b.par := rfl
@[simp] theorem writeFb_draws (f : Nat → R) (b : Block R) :
    (b.writeFb f).draws = b.draws := rfl
@[simp] theorem writeFb_logN (f : Nat → R) (b : Block R) :
    (b.writeFb f).logN = b.logN := rfl
@[simp] theorem writeFb_n (f : Nat → R) (b : Block R) :
    (b.writeFb f).n = b.n := rfl
@[simp] theorem writeFb_fs (f : Nat → R) (b : Block R) :
    (b.writeFb f).fs = b.fs := rfl
@[simp] theorem writeFb_cfgValid (f : Nat → R) (b : Block R) :
    (b.writeFb f).cfgValid = b.cfgValid := rfl
@[simp] theorem writeFb_cfgErr (f : Nat → R) (b : Block R) :
    (b.writeFb f).cfgErr = b.cfgErr := rfl

@[simp] theorem writeXb_q (f : Nat → Cplx R) (b : Block R) :
    (b.writeXb f).q = b.q := rfl
@[simp] theorem writeXb_fb (f : Nat → Cplx R) (b : Block R) :
    (b.writeXb f).fb = b.fb := rfl
@[simp] theorem writeXb_xb (f : Nat → Cplx R) (b : Block R) :
    (b.writeXb f).xb = tabulate b.n f := rfl
@[simp] theorem writeXb_mb (f : Nat → Cplx R) (b : Block R) :
    (b.writeXb f).mb = b.mb := rfl
@[simp] theorem writeXb_res (f : Nat → Cplx R) (b : Block R) :
    (b.writeXb f).res = b.res := rfl
@[simp] theorem writeXb_ph (f : Nat → Cplx R) (b : Block R) :
    (b.writeXb f).ph = b.ph := rfl
@[simp] theorem writeXb_sc (f : Nat → Cplx R) (b : Block R) :
    (b.writeXb f).sc = b.sc := rfl
@[simp] theorem writeXb_err (f : Nat → Cplx R) (b : Block R) :
    (b.writeXb f).err = b.err := rfl
@[simp] theorem writeXb_cfg (f : Nat → Cplx R) (b : Block R) :
    (b.writeXb f).cfg = b.cfg := rfl
@[simp] theorem writeXb_par (f : Nat → Cplx R) (b : Block R) :
    (b.writeXb f).par = b.par := rfl
@[simp] theorem writeXb_draws (f : Nat → Cplx R) (b : Block R) :
    (b.writeXb f).draws = b.draws := rfl
@[simp] theorem writeXb_logN (f : Nat → Cplx R) (b : Block R) :
    (b.writeXb f).logN = b.logN := rfl
@[simp] theorem writeXb_n (f : Nat → Cplx R) (b : Block R) :
    (b.writeXb f).n = b.n := rfl
@[simp] theorem writeXb_fs (f : Nat → Cplx R) (b : Block R) :
    (b.writeXb f).fs = b.fs := rfl
@[simp] theorem writeXb_cfgValid (f : Nat → Cplx R) (b : Block R) :
    (b.writeXb f).cfgValid = b.cfgValid := rfl
@[simp] theorem writeXb_cfgErr (f : Nat → Cplx R) (b : Block R) :
    (b.writeXb f).cfgErr = b.cfgErr := rfl

@[simp] theorem writeMb_q (f : Nat → R) (b : Block R) :
    (b.writeMb f).q = b.q := rfl
@[simp] theorem writeMb_fb (f : Nat → R) (b : Block R) :
    (b.writeMb f).fb = b.fb := rfl
@[simp] theorem writeMb_xb (f : Nat → R) (b : Block R) :
    (b.writeMb f).xb = b.xb := rfl
@[simp] theorem writeMb_mb (f : Nat → R) (b : Block R) :
    (b.writeMb f).mb = tabulate (b.n / 2) f := rfl
@[simp] theorem writeMb_res (f : Nat → R) (b : Block R) :
    (b.writeMb f).res = b.res := rfl
@[simp] theorem writeMb_ph (f : Nat → R) (b : Block R) :
    (b.writeMb f).ph = b.ph := rfl
@[simp] theorem writeMb_sc (f : Nat → R) (b : Block R) :
    (b.writeMb f).sc = b.sc := rfl
@[simp] theorem writeMb_err (f : Nat → R) (b : Block R) :
    (b.writeMb f).err = b.err := rfl
@[simp] theorem writeMb_cfg (f : Nat → R) (b : Block R) :
    (b.writeMb f).cfg = b.cfg := rfl
@[simp] theorem writeMb_par (f : Nat → R) (b : Block R) :
    (b.writeMb f).par = b.par := rfl
@[simp] theorem writeMb_draws (f : Nat → R) (b : Block R) :
    (b.writeMb f).draws = b.draws := rfl
@[simp] theorem writeMb_logN (f : Nat → R) (b : Block R) :
    (b.writeMb f).logN = b.logN := rfl
@[simp] theorem writeMb_n (f : Nat → R) (b : Block R) :
    (b.writeMb f).n = b.n := rfl
@[simp] theorem writeMb_fs (f : Nat → R) (b : Block R) :
    (b.writeMb f).fs = b.fs := rfl
@[simp] theorem writeMb_cfgValid (f : Nat → R) (b : Block R) :
    (b.writeMb f).cfgValid = b.cfgValid := rfl
@[simp] theorem writeMb_cfgErr (f : Nat → R) (b : Block R) :
    (b.writeMb f).cfgErr = b.cfgErr := rfl

@[simp] theorem enter_q (p : Phase) (c : BitVec 5) (b : Block R) :
    (b.enter p c).q = b.q := rfl
@[simp] theorem enter_fb (p : Phase) (c : BitVec 5) (b : Block R) :
    (b.enter p c).fb = b.fb := rfl
@[simp] theorem enter_xb (p : Phase) (c : BitVec 5) (b : Block R) :
    (b.enter p c).xb = b.xb := rfl
@[simp] theorem enter_mb (p : Phase) (c : BitVec 5) (b : Block R) :
    (b.enter p c).mb = b.mb := rfl
@[simp] theorem enter_res (p : Phase) (c : BitVec 5) (b : Block R) :
    (b.enter p c).res = b.res := rfl
@[simp] theorem enter_ph (p : Phase) (c : BitVec 5) (b : Block R) :
    (b.enter p c).ph = p := rfl
@[simp] theorem enter_sc (p : Phase) (c : BitVec 5) (b : Block R) :
    (b.enter p c).sc = c := rfl
@[simp] theorem enter_err (p : Phase) (c : BitVec 5) (b : Block R) :
    (b.enter p c).err = b.err := rfl
@[simp] theorem enter_cfg (p : Phase) (c : BitVec 5) (b : Block R) :
    (b.enter p c).cfg = b.cfg := rfl
@[simp] theorem enter_par (p : Phase) (c : BitVec 5) (b : Block R) :
    (b.enter p c).par = b.par := rfl
@[simp] theorem enter_draws (p : Phase) (c : BitVec 5) (b : Block R) :
    (b.enter p c).draws = b.draws := rfl
@[simp] theorem enter_logN (p : Phase) (c : BitVec 5) (b : Block R) :
    (b.enter p c).logN = b.logN := rfl
@[simp] theorem enter_n (p : Phase) (c : BitVec 5) (b : Block R) :
    (b.enter p c).n = b.n := rfl
@[simp] theorem enter_fs (p : Phase) (c : BitVec 5) (b : Block R) :
    (b.enter p c).fs = b.fs := rfl
@[simp] theorem enter_cfgValid (p : Phase) (c : BitVec 5) (b : Block R) :
    (b.enter p c).cfgValid = b.cfgValid := rfl
@[simp] theorem enter_cfgErr (p : Phase) (c : BitVec 5) (b : Block R) :
    (b.enter p c).cfgErr = b.cfgErr := rfl

@[simp] theorem writeRes_q (x y z : R) (b : Block R) :
    (b.writeRes x y z).q = b.q := rfl
@[simp] theorem writeRes_fb (x y z : R) (b : Block R) :
    (b.writeRes x y z).fb = b.fb := rfl
@[simp] theorem writeRes_xb (x y z : R) (b : Block R) :
    (b.writeRes x y z).xb = b.xb := rfl
@[simp] theorem writeRes_mb (x y z : R) (b : Block R) :
    (b.writeRes x y z).mb = b.mb := rfl
@[simp] theorem writeRes_res (x y z : R) (b : Block R) :
    (b.writeRes x y z).res = { bass := x, mid := y, treble := z, new := true } := rfl
@[simp] theorem writeRes_ph (x y z : R) (b : Block R) :
    (b.writeRes x y z).ph = b.ph := rfl
@[simp] theorem writeRes_sc (x y z : R) (b : Block R) :
    (b.writeRes x y z).sc = b.sc := rfl
@[simp] theorem writeRes_err (x y z : R) (b : Block R) :
    (b.writeRes x y z).err = b.err := rfl
@[simp] theorem writeRes_cfg (x y z : R) (b : Block R) :
    (b.writeRes x y z).cfg = b.cfg := rfl
@[simp] theorem writeRes_par (x y z : R) (b : Block R) :
    (b.writeRes x y z).par = b.par := rfl
@[simp] theorem writeRes_draws (x y z : R) (b : Block R) :
    (b.writeRes x y z).draws = b.draws := rfl
@[simp] theorem writeRes_logN (x y z : R) (b : Block R) :
    (b.writeRes x y z).logN = b.logN := rfl
@[simp] theorem writeRes_n (x y z : R) (b : Block R) :
    (b.writeRes x y z).n = b.n := rfl
@[simp] theorem writeRes_fs (x y z : R) (b : Block R) :
    (b.writeRes x y z).fs = b.fs := rfl
@[simp] theorem writeRes_cfgValid (x y z : R) (b : Block R) :
    (b.writeRes x y z).cfgValid = b.cfgValid := rfl
@[simp] theorem writeRes_cfgErr (x y z : R) (b : Block R) :
    (b.writeRes x y z).cfgErr = b.cfgErr := rfl

@[simp] theorem staleRes_q (E : Env R) (b : Block R) :
    (b.staleRes E).q = b.q := rfl
@[simp] theorem staleRes_fb (E : Env R) (b : Block R) :
    (b.staleRes E).fb = b.fb := rfl
@[simp] theorem staleRes_xb (E : Env R) (b : Block R) :
    (b.staleRes E).xb = b.xb := rfl
@[simp] theorem staleRes_mb (E : Env R) (b : Block R) :
    (b.staleRes E).mb = b.mb := rfl
@[simp] theorem staleRes_res (E : Env R) (b : Block R) :
    (b.staleRes E).res = { bass := E.draw b.draws, mid := E.draw (b.draws + 1), treble := E.draw (b.draws + 2), new := false } := rfl
@[simp] theorem staleRes_ph (E : Env R) (b : Block R) :
    (b.staleRes E).ph = b.ph := rfl
@[simp] theorem staleRes_sc (E : Env R) (b : Block R) :
    (b.staleRes E).sc = b.sc := rfl
@[simp] theorem staleRes_err (E : Env R) (b : Block R) :
    (b.staleRes E).err = b.err := rfl
@[simp] theorem staleRes_cfg (E : Env R) (b : Block R) :
    (b.staleRes E).cfg = b.cfg := rfl
@[simp] theorem staleRes_par (E : Env R) (b : Block R) :
    (b.staleRes E).par = b.par := rfl
@[simp] theorem staleRes_draws (E : Env R) (b : Block R) :
    (b.staleRes E).draws = b.draws + 3 := rfl
@[simp] theorem staleRes_logN (E : Env R) (b : Block R) :
    (b.staleRes E).logN = b.logN := rfl
@[simp] theorem staleRes_n (E : Env R) (b : Block R) :
    (b.staleRes E).n = b.n := rfl
@[simp] theorem staleRes_fs (E : Env R) (b : Block R) :
    (b.staleRes E).fs = b.fs := rfl
@[simp] theorem staleRes_cfgValid (E : Env R) (b : Block R) :
    (b.staleRes E).cfgValid = b.cfgValid := rfl
@[simp] theorem staleRes_cfgErr (E : Env R) (b : Block R) :
    (b.staleRes E).cfgErr = b.cfgErr := rfl

@[simp] theorem recordErr_q (c : Status) (b : Block R) :
    (b.recordErr c).q = b.q := rfl
@[simp] theorem recordErr_fb (c : Status) (b : Block R) :
    (b.recordErr c).fb = b.fb := rfl
@[simp] theorem recordErr_xb (c : Status) (b : Block R) :
    (b.recordErr c).xb = b.xb := rfl
@[simp] theorem recordErr_mb (c : Status) (b : Block R) :
    (b.recordErr c).mb = b.mb := rfl
@[simp] theorem recordErr_res (c : Status) (b : Block R) :
    (b.recordErr c).res = b.res := rfl
@[simp] theorem recordErr_ph (c : Status) (b : Block R) :
    (b.recordErr c).ph = b.ph := rfl
@[simp] theorem recordErr_sc (c : Status) (b : Block R) :
    (b.recordErr c).sc = b.sc := rfl
@[simp] theorem recordErr_err (c : Status) (b : Block R) :
    (b.recordErr c).err = b.err.record c := rfl
@[simp] theorem recordErr_cfg (c : Status) (b : Block R) :
    (b.recordErr c).cfg = b.cfg := rfl
@[simp] theorem recordErr_par (c : Status) (b : Block R) :
    (b.recordErr c).par = b.par := rfl
@[simp] theorem recordErr_draws (c : Status) (b : Block R) :
    (b.recordErr c).draws = b.draws := rfl
@[simp] theorem recordErr_logN (c : Status) (b : Block R) :
    (b.recordErr c).logN = b.logN := rfl
@[simp] theorem recordErr_n (c : Status) (b : Block R) :
    (b.recordErr c).n = b.n := rfl
@[simp] theorem recordErr_fs (c : Status) (b : Block R) :
    (b.recordErr c).fs = b.fs := rfl
@[simp] theorem recordErr_cfgValid (c : Status) (b : Block R) :
    (b.recordErr c).cfgValid = b.cfgValid := rfl
@[simp] theorem recordErr_cfgErr (c : Status) (b : Block R) :
    (b.recordErr c).cfgErr = b.cfgErr := rfl

@[simp] theorem reset_q (E : Env R) (fs : BitVec 32) (l : BitVec 5) (b : Block R) :
    (b.reset E fs l).q = [] := rfl
@[simp] theorem reset_fb (E : Env R) (fs : BitVec 32) (l : BitVec 5) (b : Block R) :
    (b.reset E fs l).fb = [] := rfl
@[simp] theorem reset_xb (E : Env R) (fs : BitVec 32) (l : BitVec 5) (b : Block R) :
    (b.reset E fs l).xb = [] := rfl
@[simp] theorem reset_mb (E : Env R) (fs : BitVec 32) (l : BitVec 5) (b : Block R) :
    (b.reset E fs l).mb = [] := rfl
@[simp] theorem reset_res (E : Env R) (fs : BitVec 32) (l : BitVec 5) (b : Block R) :
    (b.reset E fs l).res = { bass := E.draw b.draws, mid := E.draw (b.draws + 1), treble := E.draw (b.draws + 2), new := false } := rfl
@[simp] theorem reset_ph (E : Env R) (fs : BitVec 32) (l : BitVec 5) (b : Block R) :
    (b.reset E fs l).ph = .idle := rfl
@[simp] theorem reset_sc (E : Env R) (fs : BitVec 32) (l : BitVec 5) (b : Block R) :
    (b.reset E fs l).sc = 0#5 := rfl
@[simp] theorem reset_err (E : Env R) (fs : BitVec 32) (l : BitVec 5) (b : Block R) :
    (b.reset E fs l).err = { ill := false, op := false, seq := false, qovf := false } := rfl
@[simp] theorem reset_cfg (E : Env R) (fs : BitVec 32) (l : BitVec 5) (b : Block R) :
    (b.reset E fs l).cfg = { fs := fs, l := l } := rfl
@[simp] theorem reset_par (E : Env R) (fs : BitVec 32) (l : BitVec 5) (b : Block R) :
    (b.reset E fs l).par = b.par := rfl
@[simp] theorem reset_draws (E : Env R) (fs : BitVec 32) (l : BitVec 5) (b : Block R) :
    (b.reset E fs l).draws = b.draws + 3 := rfl

@[simp] theorem respond_block (d : Datum R) (b : Block R) : (b.respond d).block = b := rfl
@[simp] theorem respond_status (d : Datum R) (b : Block R) : (b.respond d).reply.status = .ok := rfl
@[simp] theorem respond_data (d : Datum R) (b : Block R) : (b.respond d).reply.data = d := rfl
@[simp] theorem notReady_block (b : Block R) : b.notReady.block = b := rfl
@[simp] theorem notReady_status (b : Block R) : b.notReady.reply.status = .notready := rfl
@[simp] theorem notReady_data (b : Block R) : b.notReady.reply.data = .int 0 := rfl
@[simp] theorem raise_block (c : Status) (b : Block R) : (b.raise c).block = b.recordErr c := rfl
@[simp] theorem raise_status (c : Status) (b : Block R) : (b.raise c).reply.status = c := rfl
@[simp] theorem raise_data (c : Status) (b : Block R) : (b.raise c).reply.data = .int 0 := rfl

@[simp] theorem record_ok (e : Err) : e.record .ok = e := rfl
@[simp] theorem record_notready (e : Err) : e.record .notready = e := rfl
@[simp] theorem record_illcmd (e : Err) : e.record .illcmd = { e with ill := true } := rfl
@[simp] theorem record_operr (e : Err) : e.record .operr = { e with op := true } := rfl
@[simp] theorem record_seqerr (e : Err) : e.record .seqerr = { e with seq := true } := rfl
@[simp] theorem record_cfgerr (e : Err) : e.record .cfgerr = e := rfl
@[simp] theorem record_qfull (e : Err) : e.record .qfull = { e with qovf := true } := rfl

@[simp] theorem datum_int_bits (W k : Nat) : (Datum.int k : Datum NumR).bits W = BitVec.ofNat 64 k := rfl
@[simp] theorem datum_num_bits (W : Nat) (v : NumR) :
    (Datum.num v).bits W = ((Config.num W).enc v).setWidth 64 := rfl
@[simp] theorem reply_word (W : Nat) (c : Status) (d : Datum NumR) :
    (Reply.mk c d).word W = responseWord c (d.bits W) := rfl

@[simp] theorem respond_word (W : Nat) (d : Datum NumR) (b : Block NumR) :
    (b.respond d).reply.word W = responseWord .ok (d.bits W) := rfl
@[simp] theorem notReady_word (W : Nat) (b : Block NumR) :
    b.notReady.reply.word W = responseWord .notready 0#64 := rfl
@[simp] theorem raise_word (W : Nat) (c : Status) (b : Block NumR) :
    (b.raise c).reply.word W = responseWord c 0#64 := rfl

/-! What the instance gives the units: it depends on `W` alone, which nothing writes. -/

@[simp] theorem env_num (b : Block NumR) : b.env.num = b.num.toArith := rfl
@[simp] theorem env_draw (b : Block NumR) : b.env.draw = Config.draw b.par.w := rfl
@[simp] theorem env_unwritten (b : Block NumR) : b.env.unwritten = Config.unwritten b.par.w := rfl

/-- Blocks with the same `W` have the same instance. -/
theorem env_congr {a b : Block NumR} (h : a.par = b.par) : a.env = b.env := by
  simp only [Block.env, h]

/-- A draw is an element of `R` (R22). -/
theorem draw_mem (W k : Nat) : (Config.num W).mem (Config.draw W k) := Config.canon_canon W _

/-- So is what an unwritten entry reads as. -/
theorem unwritten_mem (W : Nat) (part : BufferPart) (i : Nat) :
    (Config.num W).mem (Config.unwritten W part i) := Config.canon_canon W _

/-- So is every sample (R45, R52). -/
theorem sampleOf_mem (sbits : Payload) (b : Block NumR) : b.num.mem (b.sampleOf sbits) := b.num.dec_mem _

/-- R8's law on the machine: encoding a value that a sample means and decoding it gives it back. -/
theorem dec_enc_sampleOf (sbits : Payload) (b : Block NumR) :
    b.num.dec (b.num.enc (b.sampleOf sbits)) = b.sampleOf sbits := b.num.dec_enc _ (sampleOf_mem sbits b)

/-- Delivering an answer is always a next state. -/
@[simp] theorem deliver_eq (a : Answer NumR) (s : State) :
    s.deliver a = .next { s with toBlock := a.block, output := s.output ++ [a.reply.word s.par.w] } := rfl

end Sys2Proof.Machine
end

