-- ==== Sys2Proof/Laws/Ops.lean ====
section
/-! SUPPORT. What each shared operation can do, said once: checks before a command, read-back, whole-buffer
writes and the reads after them, the canonical form of the buffers. -/

namespace Sys2Proof.Machine

variable {R : Type}

/-! ### Whole-buffer writes -/

@[simp] theorem tabulate_length {α : Type} (n : Nat) (f : Nat → α) : (tabulate n f).length = n := by
  simp [tabulate]

@[simp] theorem tabulate_getElem? {α : Type} (n : Nat) (f : Nat → α) (i : Nat) :
    (tabulate n f)[i]? = if i < n then some (f i) else none := by
  by_cases h : i < n <;> simp [tabulate, h]

@[simp] theorem tabulate_getElem {α : Type} (n : Nat) (f : Nat → α) (i : Nat)
    (h : i < (tabulate n f).length) : (tabulate n f)[i] = f i := by
  simp [tabulate]

theorem tabulate_getD {α : Type} (n : Nat) (f : Nat → α) (i : Nat) (d : α) (h : i < n) :
    (tabulate n f).getD i d = f i := by
  rw [List.getD_eq_getElem?_getD, tabulate_getElem?, if_pos h]; rfl

theorem tabulate_congr {α : Type} {n : Nat} {f g : Nat → α} (h : ∀ i, i < n → f i = g i) :
    tabulate n f = tabulate n g := by
  simp only [tabulate, List.map_inj_left, List.mem_range]
  exact h

/-- A read after a whole-buffer write gives what was written there. -/
theorem fbAt_writeFb (E : Env R) (f : Nat → R) (b : Block R) (i : Nat) (h : i < b.n) :
    (b.writeFb f).fbAt E i = f i := tabulate_getD _ _ _ _ h

theorem xbAt_writeXb (E : Env R) (f : Nat → Cplx R) (b : Block R) (i : Nat) (h : i < b.n) :
    (b.writeXb f).xbAt E i = f i := tabulate_getD _ _ _ _ h

theorem mbAt_writeMb (E : Env R) (f : Nat → R) (b : Block R) (i : Nat) (h : i < b.n / 2) :
    (b.writeMb f).mbAt E i = f i := tabulate_getD _ _ _ _ h

/-- An entry a buffer lists reads as that entry, never as a free value. -/
theorem fbAt_of_getElem? (E : Env R) (b : Block R) (i : Nat) (x : R) (h : b.fb[i]? = some x) :
    b.fbAt E i = x := by simp [Block.fbAt, List.getD, h]

theorem xbAt_of_getElem? (E : Env R) (b : Block R) (i : Nat) (x : Cplx R) (h : b.xb[i]? = some x) :
    b.xbAt E i = x := by simp [Block.xbAt, List.getD, h]

theorem mbAt_of_getElem? (E : Env R) (b : Block R) (i : Nat) (x : R) (h : b.mb[i]? = some x) :
    b.mbAt E i = x := by simp [Block.mbAt, List.getD, h]

/-! ### The checks before a command (R102) -/

theorem firstError_eq_none (c o q : Bool) :
    firstError c o q = none ↔ c = false ∧ o = false ∧ q = false := by
  cases c <;> cases o <;> cases q <;> decide

/-- A guarded command raises `CFGERR`, `OPERR` or `SEQERR`, in that order, or does its own work. -/
theorem guarded_cases (c o q : Bool) (body : Block R → Answer R) (b : Block R) :
    (c = true ∧ b.guarded c o q body = b.raise .cfgerr) ∨
    (c = false ∧ o = true ∧ b.guarded c o q body = b.raise .operr) ∨
    (c = false ∧ o = false ∧ q = true ∧ b.guarded c o q body = b.raise .seqerr) ∨
    (c = false ∧ o = false ∧ q = false ∧ b.guarded c o q body = body b) := by
  cases c <;> cases o <;> cases q <;> simp [Block.guarded, firstError]

@[simp] theorem guarded_ok (body : Block R → Answer R) (b : Block R) :
    b.guarded false false false body = body b := rfl

@[simp] theorem guarded_cfg (o q : Bool) (body : Block R → Answer R) (b : Block R) :
    b.guarded true o q body = b.raise .cfgerr := rfl

@[simp] theorem guarded_op (q : Bool) (body : Block R → Answer R) (b : Block R) :
    b.guarded false true q body = b.raise .operr := rfl

@[simp] theorem guarded_seq (body : Block R → Answer R) (b : Block R) :
    b.guarded false false true body = b.raise .seqerr := rfl

/-- A read-back raises one of three errors or answers the entry; the block is otherwise untouched (R83). -/
theorem readBack_cases (E : Env R) (sp : Space) (i : Nat) (b : Block R) :
    b.readBack E sp i = b.raise .cfgerr ∨ b.readBack E sp i = b.raise .operr ∨
    b.readBack E sp i = b.raise .seqerr ∨ b.readBack E sp i = b.respond (b.entry E sp i) := by
  unfold Block.readBack
  obtain ⟨-, h⟩ | ⟨-, -, h⟩ | ⟨-, -, -, h⟩ | ⟨-, -, -, h⟩ :=
    guarded_cases (b.cfgErr && !sp.readableUnconfigured) (!b.indexLegal sp i) (!sp.validIn b.ph)
      (fun b => b.respond (b.entry E sp i)) b
  · exact .inl h
  · exact .inr (.inl h)
  · exact .inr (.inr (.inl h))
  · exact .inr (.inr (.inr h))

/-! ### The canonical form of the buffers: every operation keeps it -/

theorem memory_wf_iff (b : Block R) : Memory.wf b = true ↔
    (b.fb.length = 0 ∨ b.fb.length = b.n) ∧ (b.xb.length = 0 ∨ b.xb.length = b.n) ∧
    (b.mb.length = 0 ∨ b.mb.length = b.n / 2) := by
  simp [Memory.wf, and_assoc]

theorem writeFb_wf (f : Nat → R) {b : Block R} (h : Memory.wf b = true) :
    Memory.wf (b.writeFb f) = true := by
  rw [memory_wf_iff] at *; simp_all

theorem writeXb_wf (f : Nat → Cplx R) {b : Block R} (h : Memory.wf b = true) :
    Memory.wf (b.writeXb f) = true := by
  rw [memory_wf_iff] at *; simp_all

theorem writeMb_wf (f : Nat → R) {b : Block R} (h : Memory.wf b = true) :
    Memory.wf (b.writeMb f) = true := by
  rw [memory_wf_iff] at *; simp_all

/-- XFRM moves a whole frame, because it is asked only when one is queued. -/
theorem extractFrame_wf {b : Block R} (h : Memory.wf b = true) (hq : b.frameQueued = true) :
    Memory.wf b.extractFrame = true := by
  have hq : b.n ≤ b.q.length := by simpa [Block.frameQueued] using hq
  rw [memory_wf_iff] at *
  simp only [extractFrame_fb, extractFrame_xb, extractFrame_mb, extractFrame_n, List.length_take]
  omega

theorem pushSample_wf (v : R) {b : Block R} (h : Memory.wf b = true) :
    Memory.wf (b.pushSample v) = true := h

theorem enter_wf (p : Phase) (c : BitVec 5) {b : Block R} (h : Memory.wf b = true) :
    Memory.wf (b.enter p c) = true := h

theorem writeRes_wf (x y z : R) {b : Block R} (h : Memory.wf b = true) :
    Memory.wf (b.writeRes x y z) = true := h

theorem staleRes_wf (E : Env R) {b : Block R} (h : Memory.wf b = true) :
    Memory.wf (b.staleRes E) = true := h

theorem recordErr_wf (c : Status) {b : Block R} (h : Memory.wf b = true) :
    Memory.wf (b.recordErr c) = true := h

theorem reset_wf (E : Env R) (fs : BitVec 32) (l : BitVec 5) (b : Block R) :
    Memory.wf (b.reset E fs l) = true := by
  rw [memory_wf_iff]; simp

theorem state_reset_wf : Memory.wf State.reset.toBlock = true := by
  rw [memory_wf_iff]; simp [State.reset]

/-! ### The transform's state changes, one stage after another (R68) -/

/-- BREV and `k` stages write `XB`, `PH` and `SC` and nothing else. -/
theorem stagesEffect_eq (E : Env R) (b : Block R) (k : Nat) :
    b.stagesEffect E k =
      { b with xb := (b.stagesEffect E k).xb, ph := .stages, sc := BitVec.ofNat 5 k } := by
  induction k with
  | zero => rfl
  | succ k ih => rw [Block.stagesEffect, ih]; rfl

theorem fftEffect_eq (E : Env R) (b : Block R) :
    b.fftEffect E =
      { b with xb := (b.fftEffect E).xb, ph := .stages, sc := BitVec.ofNat 5 b.logN } :=
  stagesEffect_eq E b b.logN

@[simp] theorem stagesEffect_q (E : Env R) (b : Block R) (k : Nat) :
    (b.stagesEffect E k).q = b.q := by
  rw [stagesEffect_eq]
@[simp] theorem stagesEffect_fb (E : Env R) (b : Block R) (k : Nat) :
    (b.stagesEffect E k).fb = b.fb := by
  rw [stagesEffect_eq]
@[simp] theorem stagesEffect_mb (E : Env R) (b : Block R) (k : Nat) :
    (b.stagesEffect E k).mb = b.mb := by
  rw [stagesEffect_eq]
@[simp] theorem stagesEffect_res (E : Env R) (b : Block R) (k : Nat) :
    (b.stagesEffect E k).res = b.res := by
  rw [stagesEffect_eq]
@[simp] theorem stagesEffect_ph (E : Env R) (b : Block R) (k : Nat) :
    (b.stagesEffect E k).ph = .stages := by
  rw [stagesEffect_eq]
@[simp] theorem stagesEffect_sc (E : Env R) (b : Block R) (k : Nat) :
    (b.stagesEffect E k).sc = BitVec.ofNat 5 k := by
  rw [stagesEffect_eq]
@[simp] theorem stagesEffect_err (E : Env R) (b : Block R) (k : Nat) :
    (b.stagesEffect E k).err = b.err := by
  rw [stagesEffect_eq]
@[simp] theorem stagesEffect_cfg (E : Env R) (b : Block R) (k : Nat) :
    (b.stagesEffect E k).cfg = b.cfg := by
  rw [stagesEffect_eq]
@[simp] theorem stagesEffect_par (E : Env R) (b : Block R) (k : Nat) :
    (b.stagesEffect E k).par = b.par := by
  rw [stagesEffect_eq]
@[simp] theorem stagesEffect_draws (E : Env R) (b : Block R) (k : Nat) :
    (b.stagesEffect E k).draws = b.draws := by
  rw [stagesEffect_eq]

@[simp] theorem fftEffect_q (E : Env R) (b : Block R) :
    (b.fftEffect E).q = b.q := by
  rw [fftEffect_eq]
@[simp] theorem fftEffect_fb (E : Env R) (b : Block R) :
    (b.fftEffect E).fb = b.fb := by
  rw [fftEffect_eq]
@[simp] theorem fftEffect_mb (E : Env R) (b : Block R) :
    (b.fftEffect E).mb = b.mb := by
  rw [fftEffect_eq]
@[simp] theorem fftEffect_res (E : Env R) (b : Block R) :
    (b.fftEffect E).res = b.res := by
  rw [fftEffect_eq]
@[simp] theorem fftEffect_ph (E : Env R) (b : Block R) :
    (b.fftEffect E).ph = .stages := by
  rw [fftEffect_eq]
@[simp] theorem fftEffect_sc (E : Env R) (b : Block R) :
    (b.fftEffect E).sc = BitVec.ofNat 5 b.logN := by
  rw [fftEffect_eq]
@[simp] theorem fftEffect_err (E : Env R) (b : Block R) :
    (b.fftEffect E).err = b.err := by
  rw [fftEffect_eq]
@[simp] theorem fftEffect_cfg (E : Env R) (b : Block R) :
    (b.fftEffect E).cfg = b.cfg := by
  rw [fftEffect_eq]
@[simp] theorem fftEffect_par (E : Env R) (b : Block R) :
    (b.fftEffect E).par = b.par := by
  rw [fftEffect_eq]
@[simp] theorem fftEffect_draws (E : Env R) (b : Block R) :
    (b.fftEffect E).draws = b.draws := by
  rw [fftEffect_eq]

theorem stagesEffect_logN (E : Env R) (b : Block R) (k : Nat) :
    (b.stagesEffect E k).logN = b.logN := by rw [stagesEffect_eq]; rfl

theorem stagesEffect_n (E : Env R) (b : Block R) (k : Nat) : (b.stagesEffect E k).n = b.n := by
  rw [stagesEffect_eq]; rfl

theorem stagesEffect_xb_length (E : Env R) (b : Block R) (k : Nat) :
    (b.stagesEffect E k).xb.length = b.n := by
  cases k with
  | zero => simp [Block.stagesEffect, Block.brevEffect]
  | succ k => simp [Block.stagesEffect, Block.stgEffect, stagesEffect_n]

theorem rev_lt (l i : Nat) : rev l i < 2 ^ l := by
  induction l generalizing i with
  | zero => simp [rev]
  | succ l ih =>
    have h := ih (i / 2)
    have h2 : i % 2 * 2 ^ l ≤ 1 * 2 ^ l := Nat.mul_le_mul_right _ (by omega)
    simp only [rev, Nat.pow_succ]
    omega

/-- The upper index of a butterfly of stage `s` is an index of the buffer (R33, R42). -/
theorem pair_index_lt {l s i : Nat} (hs : s ≤ l) (hi : i < 2 ^ l) (hj : i % 2 ^ s < 2 ^ s / 2) :
    i + 2 ^ s / 2 < 2 ^ l := by
  obtain ⟨d, rfl⟩ := Nat.exists_eq_add_of_le hs
  rw [Nat.pow_add] at *
  have hq : i / 2 ^ s < 2 ^ d := Nat.div_lt_of_lt_mul hi
  have h1 := Nat.div_add_mod i (2 ^ s)
  have h2 : 2 ^ s * (i / 2 ^ s) + 2 ^ s ≤ 2 ^ s * 2 ^ d := by
    rw [← Nat.mul_succ]; exact Nat.mul_le_mul_left _ hq
  omega

/-- A stage reads no entry outside the buffer (R33). -/
theorem stageAt_congr (K : Arith R) {l s : Nat} (hs : s ≤ l) {x y : Nat → Cplx R}
    (h : ∀ i, i < 2 ^ l → x i = y i) {i : Nat} (hi : i < 2 ^ l) :
    stageAt K l s x i = stageAt K l s y i := by
  unfold stageAt
  by_cases hj : i % 2 ^ s < 2 ^ s / 2
  · simp only [hj, if_true, h i hi, h _ (pair_index_lt hs hi hj)]
  · simp only [hj, if_false, h i hi, h (i - 2 ^ s / 2) (by omega)]

/-- The entries after BREV and `k` stages (R66, R67). -/
theorem stagesEffect_xbAt (E : Env R) (b : Block R) (k : Nat) (hk : k ≤ b.logN) (i : Nat)
    (hi : i < b.n) :
    (b.stagesEffect E k).xbAt E i = stagesUpTo E.num b.logN (b.xbAt E) k i := by
  induction k generalizing i with
  | zero => exact xbAt_writeXb E _ b i hi
  | succ k ih =>
    have hw := xbAt_writeXb E (stageAt E.num (b.stagesEffect E k).logN (k + 1)
      ((b.stagesEffect E k).xbAt E)) (b.stagesEffect E k) i (by rwa [stagesEffect_n])
    rw [stagesEffect_logN] at hw
    refine Eq.trans ?_ (hw.trans (stageAt_congr E.num hk (fun i hi => ih (by omega) i hi) hi))
    simp [Block.stagesEffect, Block.stgEffect, Block.xbAt, stagesEffect_logN]

end Sys2Proof.Machine
end

