-- ==== Sys2Proof/Laws/Exec.lean ====
section
/-! SUPPORT. Every command is one answer of the block, delivered; the conditions of the checks as
propositions. Proofs about `exec` start from `exec_eq_deliver` and never unfold the dispatch again. -/

namespace Sys2Proof.Machine

variable {R : Type}

/-- The answer of the block to a command. -/
def answer (i : Instr) (b : Block NumR) : Answer NumR :=
  match i with
  | .feed sbits => b.feed (b.sampleOf sbits)
  | .proc => b.proc b.env
  | .xfrm => b.xfrm
  | .win => b.win b.env
  | .ldc => b.ldc b.env
  | .brev => b.brev b.env
  | .stg stage => b.stg b.env stage
  | .fft => b.fft b.env
  | .mag => b.magnitudes b.env
  | .band minHz maxHz => b.band b.env minHz maxHz
  | .bands => b.bands b.env
  | .rdcfg idx => b.readBack b.env .cfg idx
  | .rdstat => b.readBack b.env .status 0
  | .rdqlen => b.readBack b.env .qlen 0
  | .rdres idx => b.readBack b.env .res idx
  | .rdfb idx => b.readBack b.env .fb idx
  | .rdxr idx => b.readBack b.env .xbRe idx
  | .rdxi idx => b.readBack b.env .xbIm idx
  | .rdmb idx => b.readBack b.env .mb idx
  | .rdwin idx => b.readBack b.env .wrom idx
  | .rdtwr idx => b.readBack b.env .tromRe idx
  | .rdtwi idx => b.readBack b.env .tromIm idx

theorem exec_eq_deliver (i : Instr) (s : State) : exec i s = s.deliver (answer i s.toBlock) := by
  cases i <;> rfl

/-- What a next state of `exec` is, field by field. -/
theorem exec_eq_next {i : Instr} {s t : State} (h : exec i s = .next t) :
    t.toBlock = (answer i s.toBlock).block ∧ t.input = s.input ∧
      t.output = s.output ++ [(answer i s.toBlock).reply.word s.par.w] := by
  rw [exec_eq_deliver, deliver_eq, Host.Outcome.next.injEq] at h
  subst h
  exact ⟨rfl, rfl, rfl⟩

theorem guarded_eq_ite (c o q : Bool) (body : Block R → Answer R) (b : Block R) :
    b.guarded c o q body =
      if c then b.raise .cfgerr else if o then b.raise .operr else if q then b.raise .seqerr
      else body b := by
  cases c <;> cases o <;> cases q <;> rfl

theorem cfgValid_iff (b : Block R) : b.cfgValid = true ↔
    1 ≤ b.logN ∧ b.logN ≤ b.par.lmax ∧ 1 ≤ b.fs ∧ b.fs ≤ 2147483647 := by
  simp only [Block.cfgValid, Bool.and_eq_true, decide_eq_true_eq, and_assoc]
  rfl

theorem cfgErr_eq_false_iff (b : Block R) : b.cfgErr = false ↔ b.cfgValid = true := by
  simp [Block.cfgErr]

theorem frameQueued_iff (b : Block R) : b.frameQueued = true ↔ b.n ≤ b.q.length := by
  simp [Block.frameQueued]

theorem queueFull_iff (b : Block R) : b.queueFull = true ↔ b.par.qcap = some b.q.length := by
  unfold Block.queueFull
  cases b.par.qcap <;> simp [eq_comm]

theorem stageLegal_iff (stage : Nat) (b : Block R) :
    b.stageLegal stage = true ↔ 1 ≤ stage ∧ stage ≤ b.logN := by
  simp [Block.stageLegal]

/-- `L` is a 5-bit number (R25). -/
theorem logN_lt (b : Block R) : b.logN < 32 := b.cfg.l.isLt

theorem ofNat_logN (b : Block R) : BitVec.ofNat 5 b.logN = b.cfg.l := by
  simp [Block.logN]

end Sys2Proof.Machine
end

