-- ==== Sys2Proof/Laws/PerInstr.lean ====
section
/-! SUPPORT. One lemma per constructor: on an instance with samples of any width, the word of a
well-formed instruction spells a row of the opcode table that bears its mnemonic (R45, R47). -/

namespace Sys2Proof.Laws

/-- Bits below `k` alone are left of a `k`-bit operand, and a mask from `k` upwards sees none of them. -/
theorem setWidth_and_shiftLeft_allOnes (k : Nat) (v : BitVec k) :
    v.setWidth 64 &&& (BitVec.allOnes 64 <<< k) = 0#64 := by
  ext j hj
  by_cases h : j < k
  · simp [h, BitVec.getElem_shiftLeft]
  · simp [BitVec.getElem_setWidth, BitVec.getLsbD_of_ge v j (by omega)]

theorem commandWord_and_append (op m : BitVec 8) (p q : Payload) :
    commandWord op p &&& (m ++ q) = (op &&& m) ++ (p &&& q) := by
  apply BitVec.eq_of_getLsbD_eq
  intro i hi
  simp only [commandWord, BitVec.getLsbD_and, BitVec.getLsbD_append]
  split <;> rfl

/-- A word whose payload is a `k`-bit operand matches a row whose mask fixes the opcode and the payload
bits from `k` upwards. -/
theorem commandWord_and_mask (op : BitVec 8) (k : Nat) (v : BitVec k) :
    commandWord op (v.setWidth 64) &&& (0xFF#8 ++ (BitVec.allOnes 64 <<< k)) = op ++ 0#64 := by
  rw [commandWord_and_append, setWidth_and_shiftLeft_allOnes]
  congr 1
  exact BitVec.and_allOnes

theorem maskR_eq : maskR = 0xFF#8 ++ (BitVec.allOnes 64 <<< 32) := by decide

theorem maskG_eq : maskG = 0xFF#8 ++ (BitVec.allOnes 64 <<< 8) := by decide

namespace TableRow

/-- The instruction's word spells a row with its mnemonic, whatever the width of a sample. -/
def Statement (i : Instr) : Prop :=
  ∀ W, i.wellFormedFor W = true →
    ∃ r ∈ opcodeTableFor W, r.mnemonic = i.mnemonic ∧ r.spells (encode i) = true

/-- A row that is the same for every width serves for every width. -/
theorem of_fixed (i : Instr) (name : String) (pattern mask : CommandWord) (hn : name = i.mnemonic)
    (hr : (⟨name, pattern, mask⟩ : OpcodeRow) ∈ fixedRows) (hs : encode i &&& mask = pattern) : Statement i :=
  fun _ _ => ⟨_, List.mem_cons_of_mem _ hr, hn, beq_iff_eq.mpr hs⟩

theorem of_index (i : Instr) (op : BitVec 8) (idx : Nat) (name : String)
    (hn : name = i.mnemonic) (he : encode i = commandWord op (indexPayload idx))
    (hr : (⟨name, op ++ 0#64, maskR⟩ : OpcodeRow) ∈ fixedRows) : Statement i := by
  refine of_fixed i name _ maskR hn hr ?_
  rw [he, maskR_eq, indexPayload]
  exact commandWord_and_mask op 32 _

theorem feed (sbits : Payload) : Statement (.feed sbits) := by
  refine fun W hw => ⟨_, List.mem_cons_self, rfl, beq_iff_eq.mpr ?_⟩
  have h : sbits >>> W = 0#64 := (ushiftRight_eq_zero_iff_lt sbits W).2 (of_decide_eq_true hw)
  have := commandWord_and_mask 0x01#8 W (sbits.setWidth W)
  rwa [setWidth_setWidth_of_ushiftRight sbits W h] at this

theorem proc : Statement .proc := of_fixed _ "PROC" 0x020000000000000000#72 maskZ rfl (by decide) (by decide)

theorem xfrm : Statement .xfrm := of_fixed _ "XFRM" 0x100000000000000000#72 maskZ rfl (by decide) (by decide)

theorem win : Statement .win := of_fixed _ "WIN" 0x110000000000000000#72 maskZ rfl (by decide) (by decide)

theorem ldc : Statement .ldc := of_fixed _ "LDC" 0x120000000000000000#72 maskZ rfl (by decide) (by decide)

theorem brev : Statement .brev := of_fixed _ "BREV" 0x130000000000000000#72 maskZ rfl (by decide) (by decide)

theorem stg (stage : Nat) : Statement (.stg stage) := by
  refine of_fixed _ "STG" 0x140000000000000000#72 maskG rfl (by decide) ?_
  rw [encode, maskG_eq]
  exact commandWord_and_mask 0x14#8 8 _

theorem fft : Statement .fft := of_fixed _ "FFT" 0x150000000000000000#72 maskZ rfl (by decide) (by decide)

theorem mag : Statement .mag := of_fixed _ "MAG" 0x160000000000000000#72 maskZ rfl (by decide) (by decide)

theorem band (minHz maxHz : Int) : Statement (.band minHz maxHz) := by
  refine of_fixed _ "BAND" 0x170000000000000000#72 maskB rfl (by decide) ?_
  have h : maskB = 0xFF#8 ++ 0#64 := by decide
  rw [encode, h, commandWord_and_append, BitVec.and_zero]
  decide

theorem bands : Statement .bands := of_fixed _ "BANDS" 0x180000000000000000#72 maskZ rfl (by decide) (by decide)

theorem rdcfg (idx : Nat) : Statement (.rdcfg idx) := of_index _ 0x20#8 idx "RDCFG" rfl rfl (by decide)

theorem rdstat : Statement .rdstat := of_fixed _ "RDSTAT" 0x210000000000000000#72 maskZ rfl (by decide) (by decide)

theorem rdqlen : Statement .rdqlen := of_fixed _ "RDQLEN" 0x220000000000000000#72 maskZ rfl (by decide) (by decide)

theorem rdres (idx : Nat) : Statement (.rdres idx) := of_index _ 0x23#8 idx "RDRES" rfl rfl (by decide)

theorem rdfb (idx : Nat) : Statement (.rdfb idx) := of_index _ 0x24#8 idx "RDFB" rfl rfl (by decide)

theorem rdxr (idx : Nat) : Statement (.rdxr idx) := of_index _ 0x25#8 idx "RDXR" rfl rfl (by decide)

theorem rdxi (idx : Nat) : Statement (.rdxi idx) := of_index _ 0x26#8 idx "RDXI" rfl rfl (by decide)

theorem rdmb (idx : Nat) : Statement (.rdmb idx) := of_index _ 0x27#8 idx "RDMB" rfl rfl (by decide)

theorem rdwin (idx : Nat) : Statement (.rdwin idx) := of_index _ 0x28#8 idx "RDWIN" rfl rfl (by decide)

theorem rdtwr (idx : Nat) : Statement (.rdtwr idx) := of_index _ 0x29#8 idx "RDTWR" rfl rfl (by decide)

theorem rdtwi (idx : Nat) : Statement (.rdtwi idx) := of_index _ 0x2A#8 idx "RDTWI" rfl rfl (by decide)

end TableRow

end Sys2Proof.Laws
end

