-- ==== Sys2Proof/Tests/Slice0.lean ====
section
/-! SUPPORT. Small tests: ill-formed terms refused, words written out from the spec, the units and the
commands on the vectors of `95_test_vectors.md`, and for every obligation with hypotheses a witness that meets them. -/

namespace Sys2Proof.Tests

open Sys2Proof Sys2Proof.Machine

/-! ### Well-formedness: one ill-formed term for each check -/

theorem test_wf_sample_refused :
    (Instr.feed 0x100000000#64).wellFormedFor 32 = false ∧ (Instr.feed 0xFFFFFFFF#64).wellFormedFor 32 = true := by
  decide
theorem test_wf_stage_refused : (Instr.stg 256).wellFormedFor 32 = false := by decide
theorem test_wf_index_refused :
    ([.rdcfg, .rdres, .rdfb, .rdxr, .rdxi, .rdmb, .rdwin, .rdtwr, .rdtwi] : List (Nat → Instr)).all
      (fun c => !(c (2 ^ 32)).wellFormedFor 32 && (c (2 ^ 32 - 1)).wellFormedFor 32) = true := by decide
theorem test_wf_min_hz_refused :
    (Instr.band (2 ^ 31) 0).wellFormedFor 32 = false ∧ (Instr.band (-2 ^ 31 - 1) 0).wellFormedFor 32 = false := by decide
theorem test_wf_max_hz_refused :
    (Instr.band 0 (2 ^ 31)).wellFormedFor 32 = false ∧ (Instr.band 0 (-2 ^ 31 - 1)).wellFormedFor 32 = false := by decide

/-! ### Encoding: the words of V-ENC-1, V-ENC-2, V-ENC-3, which are for `W = 32` -/

/-- V-ENC-1, and V-ENC-3 with the extreme stages and index. -/
def legalWords : List (CommandWord × Instr) :=
  [ (0x01000000003F800000#72, .feed 0x3F800000#64), (0x020000000000000000#72, .proc),
    (0x100000000000000000#72, .xfrm), (0x110000000000000000#72, .win),
    (0x120000000000000000#72, .ldc), (0x130000000000000000#72, .brev),
    (0x14000000000000000B#72, .stg 11), (0x140000000000000000#72, .stg 0),
    (0x1400000000000000FF#72, .stg 255), (0x150000000000000000#72, .fft),
    (0x160000000000000000#72, .mag) ] ++
  [ (0x170000009600000014#72, .band 20 150), (0x1700004E2000000FA0#72, .band 4000 20000),
    (0x17FFFFFFFBFFFFFFE2#72, .band (-30) (-5)), (0x17FFFFFFFFFFFFFFFF#72, .band (-1) (-1)),
    (0x180000000000000000#72, .bands), (0x200000000000000001#72, .rdcfg 1),
    (0x210000000000000000#72, .rdstat), (0x220000000000000000#72, .rdqlen),
    (0x230000000000000003#72, .rdres 3), (0x2300000000FFFFFFFF#72, .rdres 4294967295) ] ++
  [ (0x2400000000000007FF#72, .rdfb 2047), (0x250000000000000005#72, .rdxr 5),
    (0x260000000000000005#72, .rdxi 5), (0x2700000000000003FF#72, .rdmb 1023),
    (0x280000000000000001#72, .rdwin 1), (0x290000000000000001#72, .rdtwr 1),
    (0x2A0000000000000001#72, .rdtwi 1) ]

theorem test_decode_legal_words :
    legalWords.all (fun p => (decodeFor 32 p.1).toOption == some p.2) = true := by decide

theorem test_encode_legal_words : legalWords.all (fun p => encode p.2 == p.1) = true := by decide

/-- V-ENC-2. -/
theorem test_decode_reserved_opcodes :
    ([0x000000000000000000#72, 0x030000000000000000#72, 0x190000000000000000#72,
      0x2B0000000000000000#72, 0xFF0000000000000000#72] : List CommandWord).all
      (fun w => match decodeFor 32 w with | .error .reservedOpcode => true | _ => false) = true := by decide

/-- V-ENC-2. -/
theorem test_decode_must_be_zero :
    ([0x020000000000000001#72, 0x140000000000000100#72, 0x210000000100000000#72,
      0x230000000100000000#72, 0x010000000100000000#72] : List CommandWord).all
      (fun w => match decodeFor 32 w with | .error .mustBeZero => true | _ => false) = true := by decide

/-- R45, R47: `payload[63:W]` must be 0, vacuous when `W = 64`; the mask of R47's table is that of `W = 32`. -/
theorem test_decode_sample_width :
    (decodeFor 64 0x01FFFFFFFFFFFFFFFF#72).toOption = some (.feed 0xFFFFFFFFFFFFFFFF#64) ∧
    (decodeFor 16 0x010000000000010000#72).toOption = none ∧
    (decodeFor 1 0x010000000000000001#72).toOption = some (.feed 1#64) ∧
    maskS 32 = 0xFFFFFFFFFF00000000#72 := by decide

theorem test_decode_table_word : decodeTableWord 72 0x140000000000000002 = some (.stg 2) := by decide

/-! ### Units on the vectors of the spec

`quarter` is a number system for these tests alone: an integer `v` stands for `v/4`. The vectors used need
no other values, so every result below is the spec's exact value times 4. -/

/-- The integer square root of a number below 4096. -/
def root (v : Nat) : Nat := (List.range 63).countP fun k => (k + 1) * (k + 1) ≤ v

/-- `WROM` of `N = 4` is `[0, 3/4, 3/4, 0]`, `TROM` is `[(1, 0), (0, -1)]` (V-WIN-1, V-TW-1). -/
def quarter : Env Int :=
  { num :=
      { zero := 0, add := (· + ·), sub := (· - ·), mul := fun a b => a * b / 4,
        divn := fun a c => a / c, mag := fun a b => root (a * a + b * b).toNat,
        hann := fun i _ => if i = 1 ∨ i = 2 then 3 else 0,
        twre := fun k _ => if k = 0 then 4 else 0, twim := fun k _ => if k = 0 then 0 else -4 },
    draw := fun k => 1000 + k, unwritten := fun _ i => 2000 + i }

/-- A block with `N = 4`, `FS = 400`. -/
def box (ph : Phase) (sc : BitVec 5) (q fb : List Int) (xb : List (Cplx Int)) (mb : List Int) : Block Int :=
  { q := q, fb := fb, xb := xb, mb := mb, res := { bass := 0, mid := 0, treble := 0, new := false },
    ph := ph, sc := sc, err := { ill := false, op := false, seq := false, qovf := false },
    cfg := { fs := 400#32, l := 2#5 }, par := { w := 32, lmax := 31, qcap := none }, draws := 0 }

/-- Real values as complex ones. -/
def reals (xs : List Int) : List (Cplx Int) := xs.map fun x => ⟨x, 0⟩

/-- V-BF-1, second and fourth line. -/
theorem test_butterfly :
    butterfly quarter.num ⟨12, 0⟩ ⟨16, 0⟩ ⟨0, -4⟩ = (⟨12, -16⟩, ⟨12, 16⟩) ∧
    butterfly quarter.num ⟨4, 8⟩ ⟨12, -4⟩ ⟨0, -4⟩ = (⟨0, -4⟩, ⟨8, 20⟩) := by decide

/-- V-BREV-1. -/
theorem test_rev :
    (List.range 8).map (rev 3) = [0, 4, 2, 6, 1, 5, 3, 7] ∧
    (List.range 16).map (rev 4) = [0, 8, 4, 12, 2, 10, 6, 14, 1, 9, 5, 13, 3, 11, 7, 15] ∧
    [1, 2, 3, 2047, 1000].map (rev 11) = [1024, 512, 1536, 2047, 190] := by decide

/-- V-TW-2. -/
theorem test_twiddle_address :
    (List.range 2).map (twiddleAddr 3 2) = [0, 2] ∧ (List.range 4).map (twiddleAddr 3 3) = [0, 1, 2, 3] ∧
    twiddleAddr 11 10 5 = 10 ∧ twiddleAddr 11 1 0 = 0 := by decide

/-- V-BIN-1. -/
theorem test_bin_index :
    [-30, -5, 0, 20, 21, 22, 150, 1000, 4000, 20000, 22049, 22050, 44100].map (binIndex 44100 11) =
      [-2, -1, 0, 0, 0, 1, 6, 46, 185, 928, 1023, 1024, 2048] ∧
    [20, 150, 4000, 20000].map (binIndex 8000 11) = [5, 38, 1024, 5120] ∧
    [2147483647, -2147483648].map (binIndex 1600 4) = [21474836, -21474837] := by decide

/-- V-BAND-1 to V-BAND-11. -/
theorem test_band_energy :
    ([(0, 799), (250, 450), (-500, 120), (700, 5000), (450, 250), (460, 410), (800, 900), (-30, -5),
      (300, 300), (-2147483648, 2147483647), (799, 800)] : List (Int × Int)).map
      (fun p => bandE quarter.num 1600 4 (fun b => 4 * (b + 1)) p.1 p.2) =
      [18, 16, 6, 32, 0, 20, 0, 0, 16, 18, 32] := by decide

/-- V-FFT-2: the recursive reference. -/
theorem test_reference_transform :
    (List.range 4).map (refTransform quarter.num 2 fun i => ⟨4 * (i + 1), 0⟩) =
      [⟨40, 0⟩, ⟨-8, 8⟩, ⟨-8, 0⟩, ⟨-8, -8⟩] := by decide

/-- V-FFT-4, stage 2, its butterflies done in place in the other order. -/
theorem test_butterflies_in_place :
    (stagePairs 2 2).reverse.foldl (butterflyInPlace quarter.num 2 2) (reals [9, -9, 12, 12]) =
      [⟨21, 0⟩, ⟨-9, -12⟩, ⟨-3, 0⟩, ⟨-9, 12⟩] := by decide

/-! ### Commands, one each, on the vectors of the spec -/

/-- V-ACC-1: the fourth sample. -/
theorem test_feed_appends :
    ((box .idle 0#5 [36, 16, 12] [] [] []).feed (-28)).block.q = [36, 16, 12, -28] := by decide

/-- P6, step 6. -/
theorem test_feed_full :
    let b := { box .idle 0#5 [4, 16, 12, 8, 20] [] [] [] with par := { w := 32, lmax := 31, qcap := some 5 } }
    b.feed 32 = ⟨{ b with err := { b.err with qovf := true } }, ⟨.qfull, .int 0⟩⟩ := by decide

/-- V-ACC-2: the first XFRM. -/
theorem test_xfrm_takes_frame :
    (box .mags 2#5 [1, 2, 3, 4, 5, 6, 7, 8, 9] [7, 7, 7, 7] [] []).xfrm =
      ⟨box .frame 0#5 [5, 6, 7, 8, 9] [1, 2, 3, 4] [] [], ⟨.ok, .int 0⟩⟩ := by decide

/-- V-ACC-1: three samples are too few. -/
theorem test_xfrm_not_ready :
    (box .idle 0#5 [36, 16, 12] [] [] []).xfrm =
      ⟨box .idle 0#5 [36, 16, 12] [] [] [], ⟨.notready, .int 0⟩⟩ := by decide

/-- V-WIN-2. -/
theorem test_win :
    (box .frame 0#5 [] [36, 16, 12, -28] [] []).win quarter =
      ⟨box .windowed 0#5 [] [0, 12, 9, 0] [] [], ⟨.ok, .int 0⟩⟩ := by decide

/-- V-ERR-4. -/
theorem test_win_twice :
    let b := box .windowed 0#5 [] [0, 12, 9, 0] [] []
    b.win quarter = ⟨{ b with err := { b.err with seq := true } }, ⟨.seqerr, .int 0⟩⟩ := by decide

/-- The example of R65. -/
theorem test_ldc :
    (box .windowed 0#5 [] [0, 12, 9, 0] [] []).ldc quarter =
      ⟨box .loaded 0#5 [] [0, 12, 9, 0] (reals [0, 12, 9, 0]) [], ⟨.ok, .int 0⟩⟩ := by decide

/-- V-FFT-3: BREV. -/
theorem test_brev :
    (box .loaded 0#5 [] [] (reals [16, 24, 4, 8]) []).brev quarter =
      ⟨box .stages 0#5 [] [] (reals [16, 4, 24, 8]) [], ⟨.ok, .int 0⟩⟩ := by decide

/-- V-FFT-4: STG 2. -/
theorem test_stg :
    (box .stages 1#5 [] [] (reals [9, -9, 12, 12]) []).stg quarter 2 =
      ⟨box .stages 2#5 [] [] [⟨21, 0⟩, ⟨-9, -12⟩, ⟨-3, 0⟩, ⟨-9, 12⟩] [], ⟨.ok, .int 0⟩⟩ := by decide

/-- V-FFT-9: a stage skipped, then the stages 0 and 3. -/
theorem test_stg_checks :
    let b := box .stages 0#5 [] [] (reals [16, 4, 24, 8]) []
    (b.stg quarter 2).reply.status = .seqerr ∧ (b.stg quarter 0).reply.status = .operr ∧
      (b.stg quarter 3).reply.status = .operr := by decide

/-- The example of R68. -/
theorem test_fft :
    (box .loaded 0#5 [] [] (reals [4, 8, 12, 16]) []).fft quarter =
      ⟨box .stages 2#5 [] [] [⟨40, 0⟩, ⟨-8, 8⟩, ⟨-8, 0⟩, ⟨-8, -8⟩] [], ⟨.ok, .int 0⟩⟩ := by decide

/-- V-MAG-2. -/
theorem test_mag :
    ((box .stages 2#5 [] [] [⟨52, 0⟩, ⟨12, -16⟩, ⟨-12, 0⟩, ⟨12, 16⟩] []).magnitudes quarter).block.mb =
      [52, 20] := by decide

/-- V-BAND-12. -/
theorem test_band :
    ([(20, 150), (150, 4000), (4000, 20000), (150, 20), (30, 25)] : List (Int × Int)).map
      (fun p => ((box .mags 2#5 [] [] [] [21, 15]).band quarter p.1 p.2).reply) =
      [18, 15, 0, 0, 21].map fun v => ⟨.ok, .num v⟩ := by decide

/-- The example of R77. -/
theorem test_bands :
    ((box .mags 2#5 [] [] [] [21, 15]).bands quarter).block.res =
      { bass := 18, mid := 15, treble := 0, new := true } := by decide

/-- V-PIPE-1. -/
theorem test_proc :
    (box .idle 0#5 [36, 16, 12, -28] [] [] []).proc quarter =
      ⟨{ box .mags 2#5 [] [0, 12, 9, 0] [⟨21, 0⟩, ⟨-9, -12⟩, ⟨-3, 0⟩, ⟨-9, 12⟩] [21, 15] with
          res := { bass := 18, mid := 15, treble := 0, new := true } }, ⟨.ok, .int 0⟩⟩ := by decide

/-- S8, R79: three samples are too few, and the result becomes stale. -/
theorem test_proc_not_ready :
    let b := { box .idle 0#5 [36, 16, 12] [] [] [] with res := { bass := 18, mid := 15, treble := 0, new := true } }
    (b.proc quarter).reply.status = .notready ∧ (b.proc quarter).block.res.new = false ∧
      (b.proc quarter).block.q = [36, 16, 12] := by decide

/-- A block after the PROC of V-PIPE-1. -/
def done : Block Int := ((box .idle 0#5 [36, 16, 12, -28] [] [] []).proc quarter).block

/-- R84: RDCFG on `N = 4`, `FS = 400`. -/
theorem test_rdcfg :
    [0, 1, 2].map (fun i => (done.readBack quarter .cfg i).reply) =
      [⟨.ok, .int 400⟩, ⟨.ok, .int 4⟩, ⟨.ok, .int 2⟩] ∧
    (done.readBack quarter .cfg 3).reply.status = .operr := by decide

/-- P1, step 12 and P5, step 6. -/
theorem test_rdstat :
    (done.readBack quarter .status 0).reply = ⟨.ok, .int 0x115⟩ ∧
    ((done.reset quarter 400#32 0#5).readBack quarter .status 0).reply = ⟨.ok, .int 0x400⟩ := by decide

/-- P6, step 7. -/
theorem test_rdqlen :
    ((box .idle 0#5 [4, 16, 12, 8, 20] [] [] []).readBack quarter .qlen 0).reply = ⟨.ok, .int 5⟩ := by decide

/-- P1, steps 8 to 11, and V-ERR-1. -/
theorem test_rdres :
    [0, 1, 2, 3].map (fun i => (done.readBack quarter .res i).reply) =
      [⟨.ok, .num 18⟩, ⟨.ok, .num 15⟩, ⟨.ok, .num 0⟩, ⟨.ok, .int 1⟩] ∧
    (done.readBack quarter .res 4).reply.status = .operr := by decide

/-- The example of R88 after WIN, and V-ERR-1 in `IDLE`. -/
theorem test_rdfb :
    (done.readBack quarter .fb 1).reply = ⟨.ok, .num 12⟩ ∧
    (done.readBack quarter .fb 4).reply.status = .operr ∧
    ((box .idle 0#5 [] [] [] []).readBack quarter .fb 3).reply.status = .seqerr := by decide

/-- The example of R89. -/
theorem test_rdxr :
    [0, 1, 3].map (fun i => (done.readBack quarter .xbRe i).reply) =
      [⟨.ok, .num 21⟩, ⟨.ok, .num (-9)⟩, ⟨.ok, .num (-9)⟩] := by decide

/-- The example of R90. -/
theorem test_rdxi :
    [1, 3, 0].map (fun i => (done.readBack quarter .xbIm i).reply) =
      [⟨.ok, .num (-12)⟩, ⟨.ok, .num 12⟩, ⟨.ok, .num 0⟩] := by decide

/-- The example of R91, and V-ERR-1. -/
theorem test_rdmb :
    [0, 1].map (fun i => (done.readBack quarter .mb i).reply) = [⟨.ok, .num 21⟩, ⟨.ok, .num 15⟩] ∧
    (done.readBack quarter .mb 2).reply.status = .operr ∧
    ((box .idle 0#5 [] [] [] []).readBack quarter .mb 1).reply.status = .seqerr := by decide

/-- The examples of R92. -/
theorem test_rdwin :
    [0, 1].map (fun i => (done.readBack quarter .wrom i).reply) = [⟨.ok, .num 0⟩, ⟨.ok, .num 3⟩] ∧
    (done.readBack quarter .wrom 4).reply.status = .operr := by decide

/-- The examples of R93. -/
theorem test_rdtwr :
    [0, 1].map (fun i => (done.readBack quarter .tromRe i).reply) = [⟨.ok, .num 4⟩, ⟨.ok, .num 0⟩] ∧
    (done.readBack quarter .tromRe 2).reply.status = .operr := by decide

/-- The examples of R94. -/
theorem test_rdtwi :
    [0, 1].map (fun i => (done.readBack quarter .tromIm i).reply) = [⟨.ok, .num 0⟩, ⟨.ok, .num (-4)⟩] := by decide

/-- V-RST-1 on the machine itself: the first step after reset runs the word and answers `OK 0x0`. -/
theorem test_step_after_reset :
    step (State.reset.withFetchWord 72 0x210000000000000000) =
      .next { State.reset with output := [0x000000000000000000#72] } := rfl

/-- P5, step 9 on the machine: an illegal word. -/
theorem test_step_illegal_word :
    step (State.reset.withFetchWord 72 0x7F0000000000000000) =
      .next { State.reset with
        err := { ill := true, op := false, seq := false, qovf := false },
        output := [0x020000000000000000#72] } := rfl

/-! ### Witnesses: for every obligation with hypotheses, states and operands that meet them -/

/-- The value with the encoding `k`. -/
def val (k : Nat) : NumR := ⟨BitVec.ofNat 64 k⟩

/-- A machine with `N = 4`, `FS = 400`, every buffer written. -/
def rig (ph : Phase) (sc : BitVec 5) (queued : Nat) (input : List HostEvent) : State :=
  { q := (List.range queued).map val, fb := (List.range 4).map val,
    xb := (List.range 4).map fun k => ⟨val k, val 9⟩, mb := [val 5, val 6],
    res := { bass := val 0, mid := val 0, treble := val 0, new := false },
    ph := ph, sc := sc, err := { ill := false, op := false, seq := false, qovf := false },
    cfg := { fs := 400#32, l := 2#5 }, par := { w := 32, lmax := 31, qcap := none }, draws := 3,
    input := input, output := [] }

/-- The same with a bounded queue. -/
def bounded (cap queued : Nat) : State := { rig .idle 0#5 queued [] with par := { w := 32, lmax := 31, qcap := some cap } }

/-- The same with other straps and another `LMAX`. -/
def strapped (fs : BitVec 32) (l : BitVec 5) (lmax : Nat) : State :=
  { rig .idle 0#5 0 [] with cfg := { fs := fs, l := l }, par := { w := 32, lmax := lmax, qcap := none } }

/-- All four sticky flags set. -/
def flagged (input : List HostEvent) : State :=
  { rig .mags 2#5 4 input with err := { ill := true, op := true, seq := true, qovf := true } }

/-- A number system with constant ROMs; it has NL-TWRED and NL-ZERO. -/
def plain : Arith Int :=
  { zero := 0, add := (· + ·), sub := (· - ·), mul := (· * ·), divn := fun a c => a / c,
    mag := fun a b => a + b, hann := fun _ _ => 1, twre := fun _ _ => 1, twim := fun _ _ => 0 }

def plainEnv : Env Int := { num := plain, draw := fun _ => 0, unwritten := fun _ _ => 0 }

theorem plain_nlTwRed : plain.NLTwRed := fun _ _ _ _ _ => ⟨rfl, rfl⟩

theorem plain_nlZero : plain.NLZero fun _ => True := by
  refine ⟨fun x _ => ⟨Int.mul_zero x, Int.zero_mul x⟩, rfl, rfl, rfl, fun c _ => Int.zero_ediv c⟩

theorem test_witness_StepRunsDecodedCommand :
    ((rig .mags 2#5 4 [.command 0x170000009600000014#72]).input =
        [.command 0x170000009600000014#72] ∧ decodeFor 32 0x170000009600000014#72 = .ok (.band 20 150)) ∧
    (0x2A00000000FFFFFFFF < 2 ^ 72 ∧
      decodeFor 32 (BitVec.ofNat 72 0x2A00000000FFFFFFFF) = .ok (.rdtwi 4294967295)) ∧
    (rig .idle 0#5 0 []).input = [] := ⟨⟨rfl, rfl⟩, ⟨by decide, rfl⟩, rfl⟩

theorem test_witness_IllegalWordRaisesIllcmd :
    (rig .idle 0#5 0 [.command 0#72]).input = [.command 0#72] ∧
    (∀ r ∈ opcodeTableFor 32, r.spells 0#72 = false) ∧
    (strapped 400#32 0#5 31).cfgErr = true ∧
    ∀ r ∈ opcodeTableFor 32, r.spells 0x140000000000000100#72 = false := ⟨rfl, by decide, by decide, by decide⟩

theorem test_witness_DecodeOfEncode :
    ([.feed 0xFFFFFFFF#64, .stg 255, .band (-2147483648) 2147483647, .rdmb 4294967295] : List Instr).all
      (Instr.wellFormedFor 32) = true ∧
    (Instr.feed (BitVec.allOnes 64)).wellFormedFor 64 = true ∧ (Instr.feed 1#64).wellFormedFor 1 = true := by
  decide

theorem test_witness_EncodeOfDecode :
    decodeFor 64 0x01FFFFFFFFFFFFFFFF#72 = .ok (.feed (BitVec.allOnes 64)) ∧
    decodeFor 32 0x17000000807FFFFFFF#72 = .ok (.band 2147483647 128) ∧
    decodeFor 32 0x2400000000FFFFFFFF#72 = .ok (.rdfb 4294967295) := ⟨rfl, rfl, rfl⟩

theorem test_witness_ReservedOpcodesIllegal :
    [0x00, 0x03, 0x0F, 0x19, 0x1F, 0x2B, 0xFF].all (fun op =>
      match decodeFor 32 (commandWord (BitVec.ofNat 8 op) 0#64) with
      | .error .reservedOpcode => true | _ => false) = true ∧
    [0x01, 0x02, 0x10, 0x18, 0x20, 0x2A].all (fun op =>
      match decodeFor 32 (commandWord (BitVec.ofNat 8 op) 0#64) with | .ok _ => true | _ => false) = true := by decide

theorem test_witness_CommandAnsweredOnce :
    (rig .idle 0#5 3 [.command 0x020000000000000000#72]).input = .command 0x020000000000000000#72 :: [] := rfl

theorem test_witness_PhaseFollowsTable :
    (∃ t, exec (.stg 2) (rig .stages 1#5 0 []) = .next t ∧
      tableStatus (.stg 2) (rig .stages 1#5 0 []).toBlock = .ok) ∧
    ∃ t, exec .xfrm (rig .mags 2#5 3 []) = .next t ∧
      tableStatus .xfrm (rig .mags 2#5 3 []).toBlock ≠ .ok :=
  ⟨⟨_, rfl, by decide⟩, ⟨_, rfl, by decide⟩⟩

theorem test_witness_RaiseIsPrecise :
    tableStatus (.rdmb 2) (rig .idle 0#5 0 []).toBlock = .operr ∧
    tableStatus (.rdmb 1) (rig .idle 0#5 0 []).toBlock = .seqerr ∧
    tableStatus .win (strapped 400#32 0#5 31).toBlock = .cfgerr ∧
    tableStatus (.feed 0#64) (bounded 5 5).toBlock = .qfull := by decide

/-- R7 at the limits of both straps, on both sides. -/
theorem test_witness_InvalidConfigurationDoesNothing :
    [strapped 400#32 0#5 31, strapped 400#32 13#5 12, strapped 0#32 2#5 31, strapped 0x80000000#32 2#5 31].all
      (fun s => s.cfgErr) = true ∧
    [strapped 1#32 1#5 31, strapped 400#32 12#5 12, strapped 0x7FFFFFFF#32 31#5 31].all
      (fun s => !s.cfgErr) = true ∧
    (Instr.win ≠ .rdstat ∧ ∀ idx, Instr.win ≠ .rdcfg idx) ∧
    ∃ t, step (strapped 400#32 0#5 31) = .next t ∧ noReset ((strapped 400#32 0#5 31).input.take 1) = true := by
  refine ⟨by decide, by decide, ⟨by decide, fun idx h => by cases h⟩, ⟨_, rfl, rfl⟩⟩

theorem test_witness_StickyFlagsClearedOnlyByReset :
    let s := flagged [.command 0x020000000000000000#72]
    (∃ t, step s = .next t) ∧ noReset (s.input.take 1) = true ∧
      s.err = { ill := true, op := true, seq := true, qovf := true } := ⟨⟨_, rfl⟩, rfl, rfl⟩

theorem test_witness_ClearFlagProvesNoErrorInRun :
    let s := rig .idle 0#5 0 [.command 0x210000000000000000#72, .command 0x100000000000000000#72]
    ∃ t, Host.Core.run Sys2Proof.core 2 s = .next t ∧ noReset (s.input.take 2) = true ∧
      t.err = { ill := false, op := false, seq := false, qovf := false } ∧ t.output.length = 2 :=
  ⟨_, rfl, rfl, rfl, rfl⟩

theorem test_witness_ResetLeavesResetValues :
    (flagged [.reset 400#32 0#5, .command 0#72]).input = .reset 400#32 0#5 :: [.command 0#72] := rfl

/-- A state that no command has just left: mid-transform, with a bounded queue and an overflow recorded. -/
theorem test_witness_StepKeepsInvariant :
    let s := { rig .stages 1#5 4 [.command 0x140000000000000002#72] with
      par := { w := 32, lmax := 2, qcap := some 4 }, err := { ill := false, op := true, seq := true, qovf := true } }
    s.toBlock.Inv ∧ s.parLegal = true ∧ s.input.head? ≠ some (.reset 400#32 2#5) ∧ ∃ t, step s = .next t := by
  refine ⟨⟨by decide, by decide, by decide, by decide, by decide, by decide, by decide, ?_, by decide, by decide⟩,
    by decide, by decide, ⟨_, rfl⟩⟩
  intro c hc
  cases hc
  decide

/-- A machine whose every value is a draw, or what a sample means, holds elements of `R` only. -/
theorem test_witness_StepKeepsInvariant_held :
    let v := Config.draw 32 7
    let s := { rig .stages 1#5 0 [.command 0x140000000000000002#72] with
      q := [(rig .idle 0#5 0 []).sampleOf 5#64], fb := [v, v, v, v], xb := [⟨v, v⟩, ⟨v, v⟩, ⟨v, v⟩, ⟨v, v⟩], mb := [v, v],
      res := { bass := v, mid := v, treble := v, new := false } }
    s.toBlock.Held ∧ ∃ t, step s = .next t := by
  have hv := draw_mem 32 7
  refine ⟨⟨?_, ?_, ?_, ?_, hv, hv, hv⟩, ⟨_, rfl⟩⟩
  · intro v h
    rw [List.mem_singleton.mp h]
    exact sampleOf_mem _ _
  all_goals
    intro z h
    simp only [List.mem_cons, List.not_mem_nil, or_false, or_self] at h
    subst h
    first | exact hv | exact ⟨hv, hv⟩

/-- A reset pulse that keeps `N` within `QCAP`. -/
theorem test_witness_StepKeepsInvariant_reset :
    let s := { bounded 4 4 with input := [.reset 400#32 2#5] }
    s.parLegal = true ∧ (∃ t, step s = .next t) ∧
      ∀ fs l c, s.input.head? = some (.reset fs l) → s.par.qcap = some c → 2 ^ l.toNat ≤ c := by
  refine ⟨by decide, ⟨_, rfl⟩, ?_⟩
  rintro fs l c ⟨⟩ ⟨⟩
  decide

theorem test_witness_OnlyWritersChangeState :
    (∃ t, exec (.feed 7#64) (rig .idle 0#5 0 []) = .next t ∧ t.q ≠ (rig .idle 0#5 0 []).q) ∧
    (∃ t, exec .xfrm { bounded 9 8 with fb := [] } = .next t ∧ t.fb ≠ []) ∧
    (∃ t, exec .ldc { rig .frame 0#5 0 [] with xb := [] } = .next t ∧ t.xb ≠ []) ∧
    (∃ t, exec .mag { rig .stages 2#5 0 [] with mb := [] } = .next t ∧ t.mb ≠ []) ∧
    (∃ t, exec .bands (rig .mags 2#5 0 []) = .next t ∧ t.res ≠ (rig .mags 2#5 0 []).res) ∧
    (∃ t, exec .mag (rig .stages 2#5 0 []) = .next t ∧ t.ph ≠ .stages) ∧
    (∃ t, exec (.stg 2) (rig .stages 1#5 0 []) = .next t ∧ t.sc ≠ 1#5) ∧
    (∃ t, exec (.stg 0) (rig .stages 1#5 0 []) = .next t ∧ t.err.op ≠ false) ∧
    (∃ t, exec .win (rig .stages 1#5 0 []) = .next t ∧ t.err.seq ≠ false) ∧
    (∃ t, exec (.feed 0#64) (bounded 5 5) = .next t ∧ t.err.qovf ≠ false) ∧
    (∃ t, exec .proc (rig .idle 0#5 3 []) = .next t ∧ t.draws ≠ 3) := by
  exact ⟨⟨_, rfl, fun h => by cases h⟩, ⟨_, rfl, fun h => by cases h⟩, ⟨_, rfl, fun h => by cases h⟩,
    ⟨_, rfl, fun h => by cases h⟩, ⟨_, rfl, fun h => Bool.noConfusion (congrArg Res.new h)⟩,
    ⟨_, rfl, by decide⟩, ⟨_, rfl, by decide⟩, ⟨_, rfl, by decide⟩, ⟨_, rfl, by decide⟩, ⟨_, rfl, by decide⟩,
    ⟨_, rfl, by decide⟩⟩

theorem test_witness_FreshnessFlagRule :
    (∃ t, exec .proc (rig .idle 0#5 4 []) = .next t ∧ tableStatus .proc (rig .idle 0#5 4 []).toBlock = .ok) ∧
    (∃ t, exec .proc (rig .idle 0#5 3 []) = .next t ∧
      tableStatus .proc (rig .idle 0#5 3 []).toBlock = .notready) ∧
    (∃ t, exec .bands (rig .idle 0#5 3 []) = .next t ∧
      tableStatus .bands (rig .idle 0#5 3 []).toBlock = .seqerr) :=
  ⟨⟨_, rfl, by decide⟩, ⟨_, rfl, by decide⟩, ⟨_, rfl, by decide⟩⟩

/-- In phase `FRAME` the frame buffer counts and the other two do not. -/
theorem test_witness_InvalidBuffersUnobservable :
    let s := rig .frame 0#5 0 [.command 0x120000000000000000#72]
    let t := { s with xb := [], mb := [val 7, val 7] }
    SameValid s.toBlock t.toBlock ∧ s.input = t.input ∧ s.output = t.output ∧ s ≠ t := by
  refine ⟨⟨rfl, rfl, rfl, rfl, rfl, rfl, rfl, rfl, by decide, by decide, by decide⟩, rfl, rfl, by decide⟩

theorem test_witness_ProcHasNoHistory :
    let a := box .idle 0#5 [36, 16, 12, -28] [] [] []
    let b := { box .mags 2#5 [36, 16, 12, -28, 5] [1, 1, 1, 1] [] [7, 7] with draws := 9 }
    a.cfg = b.cfg ∧ a.par = b.par ∧ a.cfgValid = true ∧ a.n ≤ a.q.length ∧ a.n ≤ b.q.length ∧
      a.q.take a.n = b.q.take a.n := by decide

theorem test_witness_DrainEmptiesQueueByFrames :
    let s := rig .idle 0#5 9 ((drain 9 4).map fun i => .command (encode i))
    s.cfgValid = true ∧ s.input = (drain s.q.length s.n).map (fun i => .command (encode i)) ∧
      s.input.length = 3 := by decide

theorem test_witness_FramesFollowFeedOrder :
    let samples : List Payload := [1#64, 2#64, 3#64, 15#64, 5#64]
    let s := { strapped 400#32 1#5 31 with
      par := { w := 4, lmax := 31, qcap := some 5 }
      input := (feedv samples ++ List.replicate (1 + 1) Instr.proc).map fun i => .command (encode i) }
    s.cfgValid = true ∧ (∀ c, s.par.qcap = some c → samples.length ≤ c) ∧ s.q = [] ∧
      (∀ sbits ∈ samples, sampleFits s.par.w sbits = true) ∧ (1 + 1) * s.n ≤ samples.length ∧
      s.input = (feedv samples ++ List.replicate (1 + 1) Instr.proc).map (fun i => .command (encode i)) ∧
      1 < s.n ∧ samples[1 * s.n + 1]? = some 15#64 := by
  have fits : ∀ sbits ∈ ([1#64, 2#64, 3#64, 15#64, 5#64] : List Payload), sampleFits 4 sbits = true :=
    List.all_eq_true.mp (by decide)
  refine ⟨by decide, ?_, rfl, fits, by decide, rfl, by decide, rfl⟩
  rintro c ⟨⟩
  decide

/-- A PROC before the frame is there, and one after; no answer is `QFULL`. -/
theorem test_witness_FramesFollowFeedOrder_interleaved :
    let moves : List (Option Payload) := [none, some 1#64, some 2#64]
    let s := { strapped 400#32 1#5 31 with
      input := (moves.map feedOrProc ++ [Instr.proc]).map fun i => .command (encode i) }
    s.cfgValid = true ∧ s.q = [] ∧ (∀ sbits ∈ moves.reduceOption, sampleFits s.par.w sbits = true) ∧
      s.input = (moves.map feedOrProc ++ [Instr.proc]).map (fun i => .command (encode i)) ∧
      ∃ t : State, Host.Core.run Sys2Proof.core moves.length s = .next t ∧ t.q.length = s.n ∧
        t.output.map codeField = [1#4, 0#4, 0#4] := by
  have fits : ∀ sbits ∈ ([1#64, 2#64] : List Payload), sampleFits 32 sbits = true :=
    List.all_eq_true.mp (by decide)
  exact ⟨by decide, rfl, fits, rfl, _, rfl, rfl, rfl⟩

/-! The commands: the conditions on the state and the operands, each clause at a boundary. -/

theorem test_witness_FeedAppendsOneSample :
    (bounded 4 3).parLegal = true ∧ (bounded 4 3).q.length < (bounded 4 3).n ∧ (bounded 3 3).parLegal = false ∧
    (bounded 5 4).cfgValid = true ∧ (bounded 5 4).par.qcap ≠ some (bounded 5 4).q.length ∧
    (bounded 5 5).cfgValid = true ∧ (bounded 5 5).par.qcap = some (bounded 5 5).q.length := by decide

theorem test_witness_XfrmExtractsFrame :
    (rig .idle 0#5 4 []).cfgValid = true ∧ (rig .idle 0#5 4 []).n ≤ (rig .idle 0#5 4 []).q.length ∧
    (rig .idle 0#5 3 []).cfgValid = true ∧ (rig .idle 0#5 3 []).q.length < (rig .idle 0#5 3 []).n := by decide

theorem test_witness_WinMultipliesByWindow :
    (rig .frame 0#5 0 []).cfgValid = true ∧ (rig .frame 0#5 0 []).ph = .frame ∧
    (rig .frame 0#5 0 []).fb.length = (rig .frame 0#5 0 []).n ∧
    (rig .frame 0#5 0 []).fb[3]? = some (val 3) ∧
    (rig .windowed 0#5 0 []).cfgValid = true ∧ (rig .windowed 0#5 0 []).ph ≠ .frame := by decide

theorem test_witness_LdcLoadsFrame :
    [rig .frame 0#5 0 [], rig .windowed 0#5 0 []].all (fun s => s.cfgValid &&
      decide (s.ph = .frame ∨ s.ph = .windowed) && decide (s.fb.length = s.n)) = true ∧
    (rig .loaded 0#5 0 []).cfgValid = true ∧
    ¬ ((rig .loaded 0#5 0 []).ph = .frame ∨ (rig .loaded 0#5 0 []).ph = .windowed) := by decide

theorem test_witness_BrevPermutesByBitReversal :
    (rig .loaded 0#5 0 []).cfgValid = true ∧ (rig .loaded 0#5 0 []).ph = .loaded ∧
    (rig .loaded 0#5 0 []).xb.length = (rig .loaded 0#5 0 []).n ∧
    (1 < (rig .loaded 0#5 0 []).n ∧ 2 < (rig .loaded 0#5 0 []).n ∧
      ∀ k, k < (rig .loaded 0#5 0 []).logN →
        Nat.testBit 2 k = Nat.testBit 1 ((rig .loaded 0#5 0 []).logN - 1 - k)) ∧
    (rig .stages 0#5 0 []).cfgValid = true ∧ (rig .stages 0#5 0 []).ph ≠ .loaded := by decide

theorem test_witness_RevReversesBits : 2047 < 2 ^ 11 ∧ 10 < 11 := by decide

/-- The last pair of the last stage, the last pair of the first, and the four ways to be turned away. -/
theorem test_witness_StgAppliesEveryButterfly :
    (let s := rig .stages 1#5 0 [];
      s.cfgValid = true ∧ 2 ≤ s.logN ∧ s.ph = .stages ∧ s.sc.toNat = 2 - 1 ∧ s.xb.length = s.n ∧
      (0 + 1) * 2 ^ 2 ≤ s.n ∧ 1 < 2 ^ 2 / 2 ∧ s.xb[0 * 2 ^ 2 + 1]? = some ⟨val 1, val 9⟩ ∧
      s.xb[0 * 2 ^ 2 + 1 + 2 ^ 2 / 2]? = some ⟨val 3, val 9⟩) ∧
    (let s := rig .stages 0#5 0 [];
      s.cfgValid = true ∧ 1 ≤ s.logN ∧ s.ph = .stages ∧ s.sc.toNat = 1 - 1 ∧ s.xb.length = s.n ∧
      (1 + 1) * 2 ^ 1 ≤ s.n ∧ 0 < 2 ^ 1 / 2 ∧ s.xb[1 * 2 ^ 1 + 0]? = some ⟨val 2, val 9⟩ ∧
      s.xb[1 * 2 ^ 1 + 0 + 2 ^ 1 / 2]? = some ⟨val 3, val 9⟩) ∧
    (rig .idle 0#5 0 []).cfgValid = true ∧ (0 < 1 ∧ (rig .idle 0#5 0 []).logN < 3) ∧
    ((rig .mags 2#5 0 []).ph ≠ .stages ∧ (rig .stages 2#5 0 []).sc.toNat ≠ 2 - 1) := by decide

theorem test_witness_ButterflyOrderIsFree :
    1 ≤ 1 ∧ 1 ≤ 2 ∧ (reals [1, 2, 3, 4]).length = 2 ^ 2 ∧ [(1, 0), (0, 0)].Perm (stagePairs 2 1) :=
  ⟨by decide, by decide, by decide, List.Perm.swap (0, 0) (1, 0) []⟩

theorem test_witness_FftRunsAllStages :
    (rig .loaded 0#5 0 []).cfgValid = true ∧ (rig .loaded 0#5 0 []).ph = .loaded ∧
    (rig .stages 2#5 0 []).cfgValid = true ∧ (rig .stages 2#5 0 []).ph ≠ .loaded := by decide

theorem test_witness_StagesComputeReferenceTransform :
    let b := box .loaded 0#5 [] [] (reals [4, 8, 12, 16]) []
    plainEnv.num.NLTwRed ∧ b.cfgValid = true ∧ b.ph = .loaded ∧ b.xb.length = b.n ∧
      (∀ i z, b.xb[i]? = some z → b.xb.getD i ⟨0, 0⟩ = z) ∧
      (1 ≤ b.logN ∧ 1 < 2 ^ (b.logN - 1) ∧ 1 < 2 ^ 1) ∧ 2 ≤ b.logN ∧ 0 < 2 ^ (b.logN - 2) ∧ 3 < 2 ^ 2 :=
  ⟨plain_nlTwRed, by decide, by decide, by decide,
    fun i z h => by rw [List.getD_eq_getElem?_getD, h]; rfl, by decide⟩

theorem test_witness_FftLeavesReferenceTransform :
    let b := box .loaded 0#5 [] [] (reals [4, 8, 12, 16]) []
    plainEnv.num.NLTwRed ∧ b.cfgValid = true ∧ b.ph = .loaded ∧ b.xb.length = b.n ∧
      ∀ i z, b.xb[i]? = some z → b.xb.getD i ⟨0, 0⟩ = z :=
  ⟨plain_nlTwRed, by decide, by decide, by decide, fun i z h => by rw [List.getD_eq_getElem?_getD, h]; rfl⟩

theorem test_witness_MagComputesModuli :
    (let s := rig .stages 2#5 0 [];
      s.cfgValid = true ∧ s.ph = .stages ∧ s.sc = s.cfg.l ∧ s.xb.length = s.n) ∧
    (rig .mags 2#5 0 []).ph ≠ .stages ∧ (rig .stages 1#5 0 []).sc ≠ (rig .stages 1#5 0 []).cfg.l := by decide

theorem test_witness_BandEnergyIsMeanOfBins : 1 ≤ 1 := by decide

theorem test_witness_BandAnswersBandEnergy :
    let s := rig .mags 2#5 0 []
    s.cfgValid = true ∧ s.ph = .mags ∧ s.mb.length = s.n / 2 ∧
      (∀ i x, s.mb[i]? = some x → s.mb.getD i (val 0) = x) ∧
      (rig .stages 2#5 0 []).cfgValid = true ∧ (rig .stages 2#5 0 []).ph ≠ .mags :=
  ⟨by decide, by decide, by decide, fun i x h => by rw [List.getD_eq_getElem?_getD, h]; rfl,
    by decide, by decide⟩

theorem test_witness_BandsWritesResult :
    let s := rig .mags 2#5 0 []
    s.cfgValid = true ∧ s.ph = .mags ∧ s.mb.length = s.n / 2 ∧
      (∀ i x, s.mb[i]? = some x → s.mb.getD i (val 0) = x) ∧
      (rig .loaded 0#5 0 []).cfgValid = true ∧ (rig .loaded 0#5 0 []).ph ≠ .mags :=
  ⟨by decide, by decide, by decide, fun i x h => by rw [List.getD_eq_getElem?_getD, h]; rfl,
    by decide, by decide⟩

theorem test_witness_ProcRunsUnitCommands :
    (rig .idle 0#5 4 []).cfgValid = true ∧ (rig .idle 0#5 4 []).n ≤ (rig .idle 0#5 4 []).q.length := by decide

theorem test_witness_ProcProcessesOneFrame :
    let s := rig .stages 1#5 5 []
    s.cfgValid = true ∧ s.n ≤ s.q.length ∧ ∀ i v, s.q[i]? = some v → s.q.getD i (val 0) = v :=
  ⟨by decide, by decide, fun i v h => by rw [List.getD_eq_getElem?_getD, h]; rfl⟩

theorem test_witness_ProcWithoutFrameMarksStale :
    (rig .mags 2#5 3 []).cfgValid = true ∧ (rig .mags 2#5 3 []).q.length < (rig .mags 2#5 3 []).n := by decide

theorem test_witness_ProcLeavesReferenceSpectrum :
    let b := box .idle 0#5 [36, 16, 12, -28] [] [] []
    plainEnv.num.NLTwRed ∧ b.cfgValid = true ∧ b.n ≤ b.q.length ∧
      ∀ i v, b.q[i]? = some v → b.q.getD i 0 = v :=
  ⟨plain_nlTwRed, by decide, by decide, fun i v h => by rw [List.getD_eq_getElem?_getD, h]; rfl⟩

theorem test_witness_RdcfgReadsConfiguration : 2 < 3 ∧ 2 < 4294967295 := by decide

/-- Also a queue that saturates the answer. -/
theorem test_witness_RdqlenReadsQueueLength :
    (rig .idle 0#5 3 []).cfgValid = true ∧ (rig .idle 0#5 3 []).q.length < 2 ^ 64 ∧
    ({ rig .idle 0#5 0 [] with q := List.replicate (2 ^ 64) (val 0) } : State).cfgValid = true ∧
    2 ^ 64 ≤ ({ rig .idle 0#5 0 [] with q := List.replicate (2 ^ 64) (val 0) } : State).q.length :=
  ⟨by decide, by decide, by decide, by simp only [List.length_replicate]; exact Nat.le_refl _⟩

theorem test_witness_RdresReadsResult : (rig .idle 0#5 0 []).cfgValid = true ∧ 3 < 4 := by decide

theorem test_witness_RdfbReadsFrameEntry :
    (rig .idle 0#5 0 []).cfgValid = true ∧ (rig .idle 0#5 0 []).n ≤ 4 ∧
    3 < (rig .idle 0#5 0 []).n ∧ (rig .idle 0#5 0 []).ph = .idle ∧
    (rig .frame 0#5 0 []).ph ≠ .idle ∧ (rig .frame 0#5 0 []).fb[3]? = some (val 3) := by decide

theorem test_witness_RdxReadsSpectrumEntry :
    (rig .windowed 0#5 0 []).cfgValid = true ∧ (rig .windowed 0#5 0 []).n ≤ 4 ∧
    3 < (rig .windowed 0#5 0 []).n ∧ (rig .windowed 0#5 0 []).ph ≠ .loaded ∧
    (rig .windowed 0#5 0 []).ph ≠ .stages ∧ (rig .windowed 0#5 0 []).ph ≠ .mags ∧
    [rig .loaded 0#5 0 [], rig .stages 1#5 0 [], rig .mags 2#5 0 []].all (fun s =>
      decide (s.ph = .loaded ∨ s.ph = .stages ∨ s.ph = .mags) &&
      decide (s.xb[3]? = some ⟨val 3, val 9⟩)) = true := by decide

theorem test_witness_RdmbReadsMagnitudeEntry :
    (rig .stages 2#5 0 []).cfgValid = true ∧ (rig .stages 2#5 0 []).n / 2 ≤ 2 ∧
    1 < (rig .stages 2#5 0 []).n / 2 ∧ (rig .stages 2#5 0 []).ph ≠ .mags ∧
    (rig .mags 2#5 0 []).ph = .mags ∧ (rig .mags 2#5 0 []).mb[1]? = some (val 6) := by decide

theorem test_witness_RomReadsInEveryPhase :
    let s := rig .idle 0#5 0 []
    s.cfgValid = true ∧ 3 < s.n ∧ s.n ≤ 4 ∧ 1 < s.n / 2 ∧ s.n / 2 ≤ 2 := by decide

/-! The units. -/

theorem test_witness_BinIndexProperties :
    1 ≤ 44100 ∧ 1 ≤ 11 ∧ (22049 : Int) ≤ 22050 := by decide

/-- The three ways to be empty, and one bin with its limits reversed (V-BAND-5 to V-BAND-8). -/
theorem test_witness_BandEnergyCornerCases :
    1 ≤ 1600 ∧ 1 ≤ 4 ∧ binIndex 1600 4 250 < binIndex 1600 4 450 ∧ binIndex 1600 4 (-5) < 0 ∧
    2 ^ 4 / 2 - 1 < binIndex 1600 4 800 ∧ 4 < 2 ^ 4 / 2 ∧
    binIndex 1600 4 460 = (4 : Nat) ∧ binIndex 1600 4 410 = (4 : Nat) := by decide

theorem test_witness_ExactBandEnergyIsBetween :
    1 ≤ 1600 ∧ bandBins 1600 (2 ^ 4) 700 5000 ≠ [] ∧
    ∀ b ∈ bandBins 1600 (2 ^ 4) 700 5000, (1 : ℝ) ≤ (fun _ => 2) b ∧ (fun _ => (2 : ℝ)) b ≤ 3 :=
  ⟨by decide, by decide, fun _ _ => by norm_num⟩

theorem test_witness_SequencerIndicesInRange :
    1 ≤ 3 ∧ 3 ≤ 3 ∧ 3 < 2 ^ 3 / 2 ∧ (0, 3) ∈ stagePairs 3 3 ∧
    binStart 1600 3 (-500) ≤ binEnd 1600 3 5000 := by decide

theorem test_witness_ExactWindowProperties : 1 ≤ 1 ∧ 1 < 2 ^ 1 ∧ 2 ≤ 2 := by decide

theorem test_witness_ExactTransformIsDft : 0 < 2 ^ 0 ∧ 7 < 2 ^ 3 := by decide

theorem test_witness_ExactTransformOfConstantAndReal :
    (∀ t, t < 2 ^ 3 → (fun _ => (⟨1, 0⟩ : Cplx ℝ)) t = ⟨1, 0⟩) ∧
    (∀ t, t < 2 ^ 3 → ((fun k : Nat => (⟨k, 0⟩ : Cplx ℝ)) t).im = 0) ∧ 1 ≤ 7 ∧ 7 < 2 ^ 3 :=
  ⟨fun _ _ => rfl, fun _ _ => rfl, by decide, by decide⟩

theorem test_witness_AllZeroFrameGivesZeros :
    (plain.NLZero fun _ => True) ∧ 1 ≤ 1 ∧ 1 < 2 ^ 1 ∧ 0 < 2 ^ 1 / 2 := ⟨plain_nlZero, by decide⟩

theorem test_witness_ExactConstantFrameBinZero : 2 ≤ 2 := by decide

end Sys2Proof.Tests
end

section
/-! SUPPORT. Proofs about the scope of the model: the named laws of the exact reals, FEED, what a step can do, and
the invariant, the set `R` and the legal parameters that every step keeps. -/

namespace Sys2Proof.Machine

/-! ### The exact reals have the named laws (R9, R10) -/

section ExactLaws

theorem exact_nlZero (finite : ℝ → Prop) : exact.NLZero finite := by
  refine ⟨fun x _ => ⟨mul_zero x, zero_mul x⟩, add_zero 0, sub_zero 0, ?_, fun c _ => zero_div _⟩
  simp [exact]

theorem exact_nlEdge : exact.NLEdge := by
  intro n hn
  have hpos : (n : ℝ) - 1 ≠ 0 := sub_ne_zero.mpr (by exact_mod_cast (by omega : n ≠ 1))
  have hlast : ((n - 1 : ℕ) : ℝ) = (n : ℝ) - 1 := by
    rw [Nat.cast_sub (by omega), Nat.cast_one]
  constructor
  · simp [exact]
  · simp only [exact, hlast, mul_div_cancel_right₀ _ hpos, Real.cos_two_pi, sub_self, mul_zero]

theorem exact_nlSym : exact.NLSym := by
  intro n i hn hi
  have hpos : (n : ℝ) - 1 ≠ 0 := sub_ne_zero.mpr (by exact_mod_cast (by omega : n ≠ 1))
  have hmirror : ((n - 1 - i : ℕ) : ℝ) = (n : ℝ) - 1 - i := by
    rw [Nat.cast_sub (by omega), Nat.cast_sub (by omega), Nat.cast_one]
  have hangle : 2 * Real.pi * ((n : ℝ) - 1 - i) / (n - 1) = 2 * Real.pi - 2 * Real.pi * i / (n - 1) := by
    field_simp
  simp only [exact, hmirror, hangle, Real.cos_two_pi_sub]

theorem exact_nlTw0 : exact.NLTw0 := fun n _ => by simp [exact]

/-- The angle `2πk/n` stays when `k` and `n` are scaled alike. -/
theorem twiddle_angle_scaled (k n e : ℕ) :
    2 * Real.pi * ((k * 2 ^ e : ℕ) : ℝ) / ((n * 2 ^ e : ℕ) : ℝ) = 2 * Real.pi * k / n := by
  push_cast
  rw [← mul_assoc, mul_div_mul_right _ _ (by positivity)]

theorem exact_nlTwRed : exact.NLTwRed := fun n k e _ _ => by
  simp only [exact, twiddle_angle_scaled, and_self]

theorem exact_nlComm : exact.NLComm := fun x y => ⟨add_comm x y, mul_comm x y⟩

theorem exact_nlMagPos : exact.NLMagPos fun x => x < 0 := fun _ _ => not_lt.mpr (Real.sqrt_nonneg _)

/-- Settles O55, one law at a time. -/
theorem exactHasNamedLaws : Obligations.ExactHasNamedLaws :=
  ⟨exact_nlZero _, exact_nlEdge, exact_nlSym, exact_nlTw0, exact_nlTwRed, exact_nlComm, exact_nlMagPos⟩

end ExactLaws

/-! ### FEED (R52) -/

section Feed

/-- The parameters are legal by themselves, and `QCAP` with the latched `N` (R6). -/
theorem parLegal_iff {R : Type} (b : Block R) : b.parLegal = true ↔
    (1 ≤ b.par.w ∧ b.par.w ≤ 64 ∧ 1 ≤ b.par.lmax ∧ b.par.lmax ≤ 31) ∧ ∀ c, b.par.qcap = some c → b.n ≤ c := by
  simp [Block.parLegal, Option.all_eq_true, and_assoc]

/-- FEED's word, for every width of a sample (format S, R45). -/
theorem decodeFor_feed (W : Nat) (p : Payload) :
    decodeFor W (0x01#8 ++ p) = if p >>> W = 0#64 then .ok (.feed p) else .error .mustBeZero := by
  simp only [decodeFor, opField_append, payloadField_append]
  exact formatS_eq W p .feed

variable {R : Type} {b : Block R}

theorem feed_of_not_full (v : R) (hv : b.cfgValid = true) (hq : b.par.qcap ≠ some b.q.length) :
    b.feed v = (b.pushSample v).respond (.int 0) := by
  simp [Block.feed, (cfgErr_eq_false_iff b).mpr hv, queueFull_iff, hq]

theorem feed_of_full (v : R) (hv : b.cfgValid = true) (hq : b.par.qcap = some b.q.length) :
    b.feed v = b.raise .qfull := by
  simp [Block.feed, (cfgErr_eq_false_iff b).mpr hv, queueFull_iff, hq]

/-- Settles O24: the word, and `feed` with and without room in the queue. -/
theorem feedAppendsOneSample : Obligations.FeedAppendsOneSample := by
  refine ⟨decodeFor_feed, fun s sbits hv => ⟨fun hp hlt hq => ?_, fun hq => ?_, fun hq => ?_⟩⟩
  · exact absurd (((parLegal_iff _).mp hp).2 _ hq) (Nat.not_le.mpr hlt)
  · rw [exec_eq_deliver, answer, feed_of_not_full _ hv hq]
    rfl
  · rw [exec_eq_deliver, answer, feed_of_full _ hv hq]
    rfl

end Feed

/-! ### What a step can do, said once -/

section StepInversion

/-- One step is nothing (no host event), a reset, an illegal word, or a command executed. -/
theorem step_cases {s t : State} (h : step s = .next t) :
    (s.input = [] ∧ t = s) ∨
    (∃ fs l rest, s.input = .reset fs l :: rest ∧
      t = { s with toBlock := s.toBlock.reset s.env fs l, input := rest }) ∨
    (∃ w rest e, s.input = .command w :: rest ∧ decodeFor s.par.w w = .error e ∧
      t = { s with toBlock := s.toBlock.recordErr .illcmd, input := rest,
                   output := s.output ++ [responseWord .illcmd 0#64] }) ∨
    (∃ w rest i, s.input = .command w :: rest ∧ decodeFor s.par.w w = .ok i ∧
      exec i { s with input := rest } = .next t) := by
  unfold step at h
  split at h
  next hin => exact .inl ⟨hin, (Host.Outcome.next.inj h).symm⟩
  next fs l rest hin => exact .inr (.inl ⟨fs, l, rest, hin, (Host.Outcome.next.inj h).symm⟩)
  next w rest hin =>
    split at h
    next i hd => exact .inr (.inr (.inr ⟨w, rest, i, hin, hd, h⟩))
    next e hd => exact .inr (.inr (.inl ⟨w, rest, e, hin, hd, (Host.Outcome.next.inj h).symm⟩))

/-- The work of a command that passed its checks, with what the checks promise (R52 to R79). -/
inductive Block.Effect (b : Block NumR) : Block NumR → Prop
  | feed (sbits : Payload) (hroom : b.par.qcap ≠ some b.q.length) : b.Effect (b.pushSample (b.sampleOf sbits))
  | xfrm (hframe : b.frameQueued = true) : b.Effect b.xfrmEffect
  | win (hph : b.ph = .frame) : b.Effect (b.winEffect b.env)
  | ldc (hph : b.ph = .frame ∨ b.ph = .windowed) : b.Effect (b.ldcEffect b.env)
  | brev (hph : b.ph = .loaded) : b.Effect (b.brevEffect b.env)
  | stg (stage : Nat) (hstage : stage ≤ b.logN) (hph : b.ph = .stages) (hsc : b.sc.toNat + 1 = stage) :
      b.Effect (b.stgEffect b.env stage)
  | fft (hph : b.ph = .loaded) : b.Effect (b.fftEffect b.env)
  | mag (hph : b.ph = .stages) (hsc : b.sc.toNat = b.logN) : b.Effect (b.magEffect b.env)
  | bands (hph : b.ph = .mags) : b.Effect (b.bandsEffect b.env)
  | proc (hframe : b.frameQueued = true) : b.Effect (b.procEffect b.env)
  | stale (hframe : b.frameQueued = false) : b.Effect (b.staleRes b.env)

/-- What one command can do to the block: nothing, a raised status recorded (`QFULL` only with a bounded
queue, R101), or, with a valid configuration, its work. -/
inductive Block.Change (b : Block NumR) : Block NumR → Prop
  | kept : b.Change b
  | raised (c : Status) (hfull : c = .qfull → b.par.qcap ≠ none) : b.Change (b.recordErr c)
  | worked {b' : Block NumR} (hcfg : b.cfgErr = false) (heffect : b.Effect b') : b.Change b'

theorem change_guarded {b : Block NumR} {c o q : Bool} {body : Block NumR → Answer NumR}
    (hbody : c = false → o = false → q = false → b.Change (body b).block) :
    b.Change (b.guarded c o q body).block := by
  obtain ⟨-, h⟩ | ⟨-, -, h⟩ | ⟨-, -, -, h⟩ | ⟨hc, ho, hq, h⟩ := guarded_cases c o q body b <;> rw [h]
  · exact .raised .cfgerr nofun
  · exact .raised .operr nofun
  · exact .raised .seqerr nofun
  · exact hbody hc ho hq

theorem change_readBack (b : Block NumR) (sp : Space) (i : Nat) : b.Change (b.readBack b.env sp i).block :=
  change_guarded fun _ _ _ => .kept

theorem change_feed (b : Block NumR) (sbits : Payload) : b.Change (b.feed (b.sampleOf sbits)).block :=
  change_guarded fun hcfg _ _ => by
    by_cases hfull : b.queueFull = true
    · rw [if_pos hfull]
      exact .raised .qfull fun _ => by simp [(queueFull_iff b).mp hfull]
    · rw [if_neg hfull]
      exact .worked hcfg (.feed sbits (mt (queueFull_iff b).mpr hfull))

theorem change_xfrm (b : Block NumR) : b.Change b.xfrm.block :=
  change_guarded fun hcfg _ _ => by
    by_cases hframe : b.frameQueued = true
    · rw [if_pos hframe]
      exact .worked hcfg (.xfrm hframe)
    · rw [if_neg hframe]
      exact .kept

theorem change_proc (b : Block NumR) : b.Change (b.proc b.env).block :=
  change_guarded fun hcfg _ _ => by
    by_cases hframe : b.frameQueued = true
    · rw [if_pos hframe]
      exact .worked hcfg (.proc hframe)
    · rw [if_neg hframe]
      exact .worked hcfg (.stale (Bool.eq_false_of_not_eq_true hframe))

theorem change_win (b : Block NumR) : b.Change (b.win b.env).block :=
  change_guarded fun hcfg _ hseq => .worked hcfg (.win (by simpa using hseq))

theorem change_ldc (b : Block NumR) : b.Change (b.ldc b.env).block :=
  change_guarded fun hcfg _ hseq => .worked hcfg (.ldc (by simpa [or_iff_not_imp_left] using hseq))

theorem change_brev (b : Block NumR) : b.Change (b.brev b.env).block :=
  change_guarded fun hcfg _ hseq => .worked hcfg (.brev (by simpa using hseq))

theorem change_stg (stage : Nat) (b : Block NumR) : b.Change (b.stg b.env stage).block :=
  change_guarded fun hcfg hop hseq => by
    obtain ⟨-, hstage⟩ := (stageLegal_iff stage b).mp (by simpa using hop)
    obtain ⟨hph, hsc⟩ : b.ph = .stages ∧ b.sc.toNat + 1 = stage := by simpa using hseq
    exact .worked hcfg (.stg stage hstage hph hsc)

theorem change_fft (b : Block NumR) : b.Change (b.fft b.env).block :=
  change_guarded fun hcfg _ hseq => .worked hcfg (.fft (by simpa using hseq))

theorem change_magnitudes (b : Block NumR) : b.Change (b.magnitudes b.env).block :=
  change_guarded fun hcfg _ hseq => by
    obtain ⟨hph, hsc⟩ : b.ph = .stages ∧ b.sc.toNat = b.logN := by simpa using hseq
    exact .worked hcfg (.mag hph hsc)

theorem change_band (minHz maxHz : Int) (b : Block NumR) : b.Change (b.band b.env minHz maxHz).block :=
  change_guarded fun _ _ _ => .kept

theorem change_bands (b : Block NumR) : b.Change (b.bands b.env).block :=
  change_guarded fun hcfg _ hseq => .worked hcfg (.bands (by simpa using hseq))

/-- Every command makes one of these changes. -/
theorem change_answer (i : Instr) (b : Block NumR) : b.Change (answer i b).block := by
  cases i with
  | feed sbits => exact change_feed b sbits
  | proc => exact change_proc b
  | xfrm => exact change_xfrm b
  | win => exact change_win b
  | ldc => exact change_ldc b
  | brev => exact change_brev b
  | stg stage => exact change_stg stage b
  | fft => exact change_fft b
  | mag => exact change_magnitudes b
  | band minHz maxHz => exact change_band minHz maxHz b
  | bands => exact change_bands b
  | rdcfg | rdstat | rdqlen | rdres | rdfb | rdxr | rdxi | rdmb | rdwin | rdtwr | rdtwi =>
    exact change_readBack b _ _

/-- A step resets the block with the straps the host presents, or changes it as one command can. -/
theorem step_reset_or_change {s t : State} (h : step s = .next t) :
    (∃ fs l, s.input.head? = some (.reset fs l) ∧ t.toBlock = s.toBlock.reset s.env fs l) ∨
    s.toBlock.Change t.toBlock := by
  obtain ⟨-, rfl⟩ | ⟨fs, l, rest, hin, rfl⟩ | ⟨w, rest, e, -, -, rfl⟩ | ⟨w, rest, i, -, -, hexec⟩ := step_cases h
  · exact .inr .kept
  · exact .inl ⟨fs, l, by rw [hin]; rfl, rfl⟩
  · exact .inr (.raised .illcmd nofun)
  · rw [(exec_eq_next hexec).1]
    exact .inr (change_answer i s.toBlock)

/-- No command writes the configuration or the parameters (R25, R6). -/
theorem effect_cfg_par {b b' : Block NumR} (h : b.Effect b') : b'.cfg = b.cfg ∧ b'.par = b.par := by
  cases h with
  | fft => exact ⟨fftEffect_cfg _ _, fftEffect_par _ _⟩
  | proc => exact ⟨fftEffect_cfg _ _, fftEffect_par _ _⟩
  | _ => exact ⟨rfl, rfl⟩

theorem change_cfg_par {b b' : Block NumR} (h : b.Change b') : b'.cfg = b.cfg ∧ b'.par = b.par := by
  cases h with
  | kept => exact ⟨rfl, rfl⟩
  | raised => exact ⟨rfl, rfl⟩
  | worked _ heffect => exact effect_cfg_par heffect

end StepInversion

/-! ### The invariant of the block: each writer keeps it, so each command does -/

section Invariant

variable {R : Type} {b : Block R}

/-- `FB` is valid in every phase but `IDLE` (R21). -/
theorem Block.Inv.fb_length (h : b.Inv) (hph : b.ph ≠ .idle) : b.fb.length = b.n :=
  h.fbHeld (decide_eq_true hph)

theorem inv_recordErr (h : b.Inv) (c : Status) (hfull : c = .qfull → b.par.qcap ≠ none) :
    (b.recordErr c).Inv :=
  { h with
    overflowBounded := fun hq => by
      cases c with
      | qfull => exact hfull rfl
      | _ => exact h.overflowBounded hq }

theorem inv_reset (E : Env R) (fs : BitVec 32) (l : BitVec 5) (b : Block R) : (b.reset E fs l).Inv where
  memory := reset_wf E fs l b
  fbHeld := nofun
  xbHeld := nofun
  mbHeld := nofun
  stagesInRange := nofun
  stagesDone := nofun
  stagesNone _ _ := rfl
  queueBound _ _ := Nat.zero_le _
  overflowBounded := nofun
  unconfigured _ := ⟨rfl, rfl, rfl⟩

theorem inv_writeFb (h : b.Inv) (f : Nat → R) : (b.writeFb f).Inv :=
  { h with memory := writeFb_wf f h.memory, fbHeld := fun _ => tabulate_length _ _ }

theorem inv_writeXb (h : b.Inv) (f : Nat → Cplx R) : (b.writeXb f).Inv :=
  { h with memory := writeXb_wf f h.memory, xbHeld := fun _ => tabulate_length _ _ }

theorem inv_writeMb (h : b.Inv) (f : Nat → R) : (b.writeMb f).Inv :=
  { h with memory := writeMb_wf f h.memory, mbHeld := fun _ => tabulate_length _ _ }

theorem inv_staleRes (h : b.Inv) (E : Env R) : (b.staleRes E).Inv :=
  { h with
    unconfigured := fun hbad => by
      obtain ⟨hq, hph, -⟩ := h.unconfigured hbad
      exact ⟨hq, hph, rfl⟩ }

theorem stagesEffect_cfgErr (E : Env R) (b : Block R) (k : Nat) : (b.stagesEffect E k).cfgErr = b.cfgErr := by
  rw [stagesEffect_eq]
  rfl

/-- After FFT the stage count is `L` (R68). -/
theorem fftEffect_sc_toNat (E : Env R) (b : Block R) : (b.fftEffect E).sc.toNat = (b.fftEffect E).logN := by
  rw [fftEffect_sc, ofNat_logN]
  exact (stagesEffect_logN E b b.logN).symm

/-! The other writers are used with a valid configuration only, where `unconfigured` asks nothing. -/

theorem cfgErr_absurd {P : Prop} (hcfg : b.cfgErr = false) (hbad : b.cfgErr = true) : P :=
  absurd (hcfg.symm.trans hbad) Bool.false_ne_true

variable (h : b.Inv) (hcfg : b.cfgErr = false)
include h hcfg

theorem inv_pushSample (v : R) (hroom : b.par.qcap ≠ some b.q.length) : (b.pushSample v).Inv :=
  { h with
    queueBound := fun c hc => by
      have hle := h.queueBound c hc
      have hne : b.q.length ≠ c := fun heq => hroom (heq ▸ hc)
      simp only [pushSample_q, List.length_append, List.length_singleton]
      omega
    unconfigured := cfgErr_absurd hcfg }

theorem inv_extractFrame (hframe : b.frameQueued = true) : b.extractFrame.Inv :=
  { h with
    memory := extractFrame_wf h.memory hframe
    fbHeld := fun _ => List.length_take_of_le ((frameQueued_iff b).mp hframe)
    queueBound := fun c hc => (List.drop_sublist _ _).length_le.trans (h.queueBound c hc)
    unconfigured := cfgErr_absurd hcfg }

theorem inv_writeRes (x y z : R) : (b.writeRes x y z).Inv :=
  { h with unconfigured := cfgErr_absurd hcfg }

/-- A phase may be entered when the buffers it makes valid are complete and the stage count fits it. -/
theorem inv_enter {ph : Phase} {sc : BitVec 5}
    (fbHeld : Space.validIn .fb ph = true → b.fb.length = b.n)
    (xbHeld : Space.validIn .xbRe ph = true → b.xb.length = b.n)
    (mbHeld : Space.validIn .mb ph = true → b.mb.length = b.n / 2)
    (stagesInRange : ph = .stages → sc.toNat ≤ b.logN) (stagesDone : ph = .mags → sc.toNat = b.logN)
    (stagesNone : ph ≠ .stages → ph ≠ .mags → sc = 0#5) : (b.enter ph sc).Inv :=
  { h with
    fbHeld, xbHeld, mbHeld, stagesInRange, stagesDone, stagesNone
    unconfigured := cfgErr_absurd hcfg }

theorem inv_xfrmEffect (hframe : b.frameQueued = true) : b.xfrmEffect.Inv :=
  inv_enter (inv_extractFrame h hcfg hframe) hcfg
    (fun _ => List.length_take_of_le ((frameQueued_iff b).mp hframe)) nofun nofun nofun nofun fun _ _ => rfl

theorem inv_winEffect (E : Env R) : (b.winEffect E).Inv :=
  inv_enter (inv_writeFb h _) hcfg (fun _ => tabulate_length _ _) nofun nofun nofun nofun fun _ _ => rfl

theorem inv_ldcEffect (E : Env R) (hph : b.ph ≠ .idle) : (b.ldcEffect E).Inv :=
  inv_enter (inv_writeXb h _) hcfg (fun _ => h.fb_length hph) (fun _ => tabulate_length _ _) nofun nofun nofun
    fun _ _ => rfl

theorem inv_brevEffect (E : Env R) (hph : b.ph ≠ .idle) : (b.brevEffect E).Inv :=
  inv_enter (inv_writeXb h _) hcfg (fun _ => h.fb_length hph) (fun _ => tabulate_length _ _) nofun
    (fun _ => Nat.zero_le _) nofun fun hne => absurd rfl hne

theorem inv_stgEffect (E : Env R) {stage : Nat} (hstage : stage ≤ b.logN) (hph : b.ph ≠ .idle) :
    (b.stgEffect E stage).Inv :=
  inv_enter (inv_writeXb h _) hcfg (fun _ => h.fb_length hph) (fun _ => tabulate_length _ _) nofun
    (fun _ => (Nat.mod_le _ _).trans hstage) nofun fun hne => absurd rfl hne

theorem inv_magEffect (E : Env R) (hph : b.ph = .stages) (hsc : b.sc.toNat = b.logN) : (b.magEffect E).Inv :=
  inv_enter (inv_writeMb h _) hcfg (fun _ => h.fb_length (by simp [hph]))
    (fun _ => h.xbHeld (by simp [hph, Space.validIn])) (fun _ => tabulate_length _ _) nofun (fun _ => hsc)
    fun _ hne => absurd rfl hne

theorem inv_bandsEffect (E : Env R) : (b.bandsEffect E).Inv := inv_writeRes h hcfg _ _ _

theorem inv_stagesEffect (E : Env R) (hph : b.ph ≠ .idle) {k : Nat} (hk : k ≤ b.logN) :
    (b.stagesEffect E k).Inv := by
  induction k with
  | zero => exact inv_brevEffect h hcfg E hph
  | succ k ih =>
    exact inv_stgEffect (ih (by omega)) ((stagesEffect_cfgErr E b k).trans hcfg) E
      (by rwa [stagesEffect_logN]) (by simp)

theorem inv_fftEffect (E : Env R) (hph : b.ph ≠ .idle) : (b.fftEffect E).Inv :=
  inv_stagesEffect h hcfg E hph le_rfl

/-- PROC does the work of its six unit commands, each of which keeps the invariant (R79). -/
theorem inv_procEffect (E : Env R) (hframe : b.frameQueued = true) : (b.procEffect E).Inv := by
  have hxfrm : b.xfrmEffect.Inv := inv_xfrmEffect h hcfg hframe
  have hwin : (b.xfrmEffect.winEffect E).Inv := inv_winEffect hxfrm hcfg E
  have hldc : ((b.xfrmEffect.winEffect E).ldcEffect E).Inv := inv_ldcEffect hwin hcfg E nofun
  have hfft := inv_fftEffect hldc hcfg E nofun
  have hcfg' := (stagesEffect_cfgErr E ((b.xfrmEffect.winEffect E).ldcEffect E) b.logN).trans hcfg
  exact inv_bandsEffect (inv_magEffect hfft hcfg' E (fftEffect_ph _ _) (fftEffect_sc_toNat E _)) hcfg' E

end Invariant

section InvariantOfChange

variable {b b' : Block NumR}

theorem inv_of_effect (h : b.Inv) (hcfg : b.cfgErr = false) (heffect : b.Effect b') : b'.Inv := by
  cases heffect with
  | feed sbits hroom => exact inv_pushSample h hcfg _ hroom
  | xfrm hframe => exact inv_xfrmEffect h hcfg hframe
  | win => exact inv_winEffect h hcfg _
  | ldc hph => exact inv_ldcEffect h hcfg _ (by rcases hph with hph | hph <;> simp [hph])
  | brev hph => exact inv_brevEffect h hcfg _ (by simp [hph])
  | stg stage hstage hph => exact inv_stgEffect h hcfg _ hstage (by simp [hph])
  | fft hph => exact inv_fftEffect h hcfg _ (by simp [hph])
  | mag hph hsc => exact inv_magEffect h hcfg _ hph hsc
  | bands => exact inv_bandsEffect h hcfg _
  | proc hframe => exact inv_procEffect h hcfg _ hframe
  | stale => exact inv_staleRes h _

theorem inv_of_change (h : b.Inv) (hchange : b.Change b') : b'.Inv := by
  cases hchange with
  | kept => exact h
  | raised c hfull => exact inv_recordErr h c hfull
  | worked hcfg heffect => exact inv_of_effect h hcfg heffect

theorem step_keeps_inv {s t : State} (h : s.toBlock.Inv) (hstep : step s = .next t) : t.toBlock.Inv := by
  obtain ⟨fs, l, -, ht⟩ | hchange := step_reset_or_change hstep
  · exact ht ▸ inv_reset _ fs l s.toBlock
  · exact inv_of_change h hchange

end InvariantOfChange

/-! ### The units yield elements of `R` (R8) -/

section UnitValues

/-- Both parts of a complex value are elements of `R` (R58). -/
def MemCplx {R : Type} {W : Nat} (N : NumSys R W) (z : Cplx R) : Prop := N.mem z.re ∧ N.mem z.im

variable {R : Type} {W : Nat} (N : NumSys R W)

/-- What LDC makes of a real value (R65). -/
theorem memCplx_of_mem {N : NumSys R W} {x : R} (hx : N.mem x) : MemCplx N ⟨x, N.zero⟩ := ⟨hx, N.zero_mem⟩

theorem butterfly_mem (u v w : Cplx R) :
    MemCplx N (butterfly N.toArith u v w).1 ∧ MemCplx N (butterfly N.toArith u v w).2 :=
  ⟨⟨N.add_mem _ _, N.add_mem _ _⟩, N.sub_mem _ _, N.sub_mem _ _⟩

theorem stageAt_mem (l s : Nat) (x : Nat → Cplx R) (i : Nat) :
    MemCplx N (stageAt N.toArith l s x i) := by
  simp only [stageAt]
  split
  · exact (butterfly_mem N _ _ _).1
  · exact (butterfly_mem N _ _ _).2

theorem bandE_mem (fs l : Nat) (mb : Nat → R) (lo hi : Int) : N.mem (bandE N.toArith fs l mb lo hi) := by
  simp only [bandE]
  split
  · exact N.zero_mem
  · exact N.divn_mem _ _

theorem forall_mem_tabulate {α : Type} {P : α → Prop} {f : Nat → α} (h : ∀ i, P (f i)) (n : Nat) :
    ∀ x ∈ tabulate n f, P x := by
  simp only [tabulate, List.forall_mem_map]
  exact fun i _ => h i

theorem getD_of_forall_mem {α : Type} {P : α → Prop} {xs : List α} {d : α} (h : ∀ x ∈ xs, P x) (hd : P d)
    (i : Nat) : P (xs.getD i d) := by
  rw [List.getD_eq_getElem?_getD]
  cases hx : xs[i]? with
  | none => exact hd
  | some x => exact h x (List.mem_of_getElem? hx)

end UnitValues

/-! ### The values held are elements of `R`: each writer keeps it, so each command does -/

section HeldValues

variable {b b' : Block NumR}

/-! No effect changes the number system and the free values that the units take. -/

theorem xfrmEffect_env (b : Block NumR) : b.xfrmEffect.env = b.env := rfl
theorem winEffect_env (E : Env NumR) (b : Block NumR) : (b.winEffect E).env = b.env := rfl
theorem ldcEffect_env (E : Env NumR) (b : Block NumR) : (b.ldcEffect E).env = b.env := rfl
theorem stagesEffect_env (E : Env NumR) (b : Block NumR) (k : Nat) : (b.stagesEffect E k).env = b.env :=
  env_congr (stagesEffect_par E b k)
theorem fftEffect_env (E : Env NumR) (b : Block NumR) : (b.fftEffect E).env = b.env :=
  env_congr (fftEffect_par E b)
theorem magEffect_env (E : Env NumR) (b : Block NumR) : (b.magEffect E).env = b.env := rfl

theorem held_reset (fs : BitVec 32) (l : BitVec 5) (b : Block NumR) : (b.reset b.env fs l).Held where
  q := nofun
  fb := nofun
  xb := nofun
  mb := nofun
  bass := draw_mem _ _
  mid := draw_mem _ _
  treble := draw_mem _ _

/-- An unwritten entry of `XB` reads as a pair of elements of `R` (R31). -/
theorem unwritten_memCplx (b : Block NumR) (i : Nat) :
    MemCplx b.num ⟨b.env.unwritten .xbRe i, b.env.unwritten .xbIm i⟩ :=
  ⟨unwritten_mem _ _ _, unwritten_mem _ _ _⟩

variable (h : b.Held)
include h

theorem xbAt_mem (i : Nat) : MemCplx b.num (b.xbAt b.env i) :=
  getD_of_forall_mem (P := MemCplx b.num) h.xb (unwritten_memCplx b i) i

theorem fbAt_mem (i : Nat) : b.num.mem (b.fbAt b.env i) :=
  getD_of_forall_mem h.fb (unwritten_mem _ _ _) i

theorem held_recordErr (c : Status) : (b.recordErr c).Held := { h with }

theorem held_enter (ph : Phase) (sc : BitVec 5) : (b.enter ph sc).Held := { h with }

theorem held_pushSample {v : NumR} (hv : b.num.mem v) : (b.pushSample v).Held :=
  { h with q := List.forall_mem_append.mpr ⟨h.q, List.forall_mem_singleton.mpr hv⟩ }

theorem held_extractFrame : b.extractFrame.Held :=
  { h with
    q := fun v hv => h.q v (List.mem_of_mem_drop hv)
    fb := fun v hv => h.q v (List.mem_of_mem_take hv) }

theorem held_writeFb {f : Nat → NumR} (hf : ∀ i, b.num.mem (f i)) : (b.writeFb f).Held :=
  { h with fb := forall_mem_tabulate hf _ }

theorem held_writeXb {f : Nat → Cplx NumR} (hf : ∀ i, MemCplx b.num (f i)) : (b.writeXb f).Held :=
  { h with xb := forall_mem_tabulate hf _ }

theorem held_writeMb {f : Nat → NumR} (hf : ∀ i, b.num.mem (f i)) : (b.writeMb f).Held :=
  { h with mb := forall_mem_tabulate hf _ }

theorem held_staleRes : (b.staleRes b.env).Held :=
  { h with bass := draw_mem _ _, mid := draw_mem _ _, treble := draw_mem _ _ }

theorem held_xfrmEffect : b.xfrmEffect.Held := held_enter (held_extractFrame h) _ _

theorem held_winEffect : (b.winEffect b.env).Held :=
  held_enter (held_writeFb h fun _ => b.num.mul_mem _ _) _ _

theorem held_ldcEffect : (b.ldcEffect b.env).Held :=
  held_enter (held_writeXb h fun i => memCplx_of_mem (fbAt_mem h i)) _ _

theorem held_brevEffect : (b.brevEffect b.env).Held :=
  held_enter (held_writeXb h fun _ => xbAt_mem h _) _ _

theorem held_stgEffect (stage : Nat) : (b.stgEffect b.env stage).Held :=
  held_enter (held_writeXb h (stageAt_mem b.num _ _ _)) _ _

theorem held_stagesEffect (k : Nat) : (b.stagesEffect b.env k).Held := by
  induction k with
  | zero => exact held_brevEffect h
  | succ k ih =>
    have hstg := held_stgEffect ih (k + 1)
    rwa [stagesEffect_env] at hstg

theorem held_fftEffect : (b.fftEffect b.env).Held := held_stagesEffect h b.logN

theorem held_magEffect : (b.magEffect b.env).Held :=
  held_enter (held_writeMb h fun _ => b.num.mag_mem _ _) _ _

theorem held_bandsEffect : (b.bandsEffect b.env).Held :=
  { h with bass := bandE_mem b.num _ _ _ _ _, mid := bandE_mem b.num _ _ _ _ _, treble := bandE_mem b.num _ _ _ _ _ }

/-- PROC does the work of its six unit commands, each of which keeps what is held in `R` (R79). -/
theorem held_procEffect : (b.procEffect b.env).Held := by
  have hproc := held_bandsEffect (held_magEffect (held_fftEffect (held_ldcEffect (held_winEffect
    (held_xfrmEffect h)))))
  simp only [magEffect_env, fftEffect_env, ldcEffect_env, winEffect_env, xfrmEffect_env] at hproc
  exact hproc

theorem held_of_effect (heffect : b.Effect b') : b'.Held := by
  cases heffect with
  | feed sbits => exact held_pushSample h (sampleOf_mem sbits b)
  | xfrm => exact held_xfrmEffect h
  | win => exact held_winEffect h
  | ldc => exact held_ldcEffect h
  | brev => exact held_brevEffect h
  | stg stage => exact held_stgEffect h stage
  | fft => exact held_fftEffect h
  | mag => exact held_magEffect h
  | bands => exact held_bandsEffect h
  | proc => exact held_procEffect h
  | stale => exact held_staleRes h

theorem held_of_change (hchange : b.Change b') : b'.Held := by
  cases hchange with
  | kept => exact h
  | raised c => exact held_recordErr h c
  | worked _ heffect => exact held_of_effect h heffect

end HeldValues

theorem step_keeps_held {s t : State} (h : s.toBlock.Held) (hstep : step s = .next t) : t.toBlock.Held := by
  obtain ⟨fs, l, -, ht⟩ | hchange := step_reset_or_change hstep
  · exact ht ▸ held_reset fs l s.toBlock
  · exact held_of_change h hchange

/-! ### Legal parameters (R6) -/

section LegalParameters

theorem step_keeps_parLegal {s t : State} (h : s.parLegal = true) (hstep : step s = .next t)
    (hreset : ∀ fs l c, s.input.head? = some (.reset fs l) → s.par.qcap = some c → 2 ^ l.toNat ≤ c) :
    t.parLegal = true := by
  rw [parLegal_iff] at h ⊢
  obtain ⟨hranges, hqcap⟩ := h
  obtain ⟨fs, l, hhead, ht⟩ | hchange := step_reset_or_change hstep
  · rw [ht]
    exact ⟨hranges, fun c => hreset fs l c hhead⟩
  · obtain ⟨hcfg, hpar⟩ := change_cfg_par hchange
    rw [Block.n, Block.logN, hcfg, hpar]
    exact ⟨hranges, hqcap⟩

end LegalParameters

/-- Settles O17: a step resets the block or changes it as one command can, and both keep each part. -/
theorem stepKeepsInvariant : Obligations.StepKeepsInvariant :=
  ⟨fun _ _ => step_keeps_inv, fun _ _ => step_keeps_held, fun _ _ => step_keeps_parLegal⟩

/-- The power-on state is what a reset pulse with the straps 44100 and 11 leaves (log 5). -/
theorem exists_state_reset_eq_reset :
    ∃ b : Block NumR, State.reset.toBlock = b.reset b.env 44100#32 11#5 :=
  ⟨{ State.reset.toBlock with draws := 0 }, rfl⟩

/-- Settles O16: what any reset leaves has the invariant and holds elements of `R` only. -/
theorem resetStateSatisfiesInvariant : Obligations.ResetStateSatisfiesInvariant := by
  obtain ⟨b, hb⟩ := exists_state_reset_eq_reset
  refine ⟨?_, by decide, ?_⟩
  · exact hb ▸ inv_reset b.env _ _ b
  · exact hb ▸ held_reset _ _ b

end Sys2Proof.Machine
end

section
/-! SUPPORT. Proofs about the state as a whole: invalid buffers, the tables of R102 and R109, the sticky flags, the
writers of each part, the freshness flag and reset. -/

namespace Sys2Proof.Machine

/-! ### One step of a state, by what the host presents -/

section StepEquations

/-- The answer of the block to a command word (R37, R48). -/
def wordAnswer (w : CommandWord) (b : Block NumR) : Answer NumR :=
  match decodeFor b.par.w w with
  | .ok i => answer i b
  | .error _ => b.raise .illcmd

theorem step_idle {s : State} (hin : s.input = []) : step s = .next s := by
  rw [step, hin]

theorem step_reset {s : State} {fs : BitVec 32} {l : BitVec 5} {rest : List HostEvent}
    (hin : s.input = .reset fs l :: rest) :
    step s = .next { s with toBlock := s.toBlock.reset s.env fs l, input := rest } := by
  rw [step, hin]
  rfl

theorem step_command {s : State} {w : CommandWord} {rest : List HostEvent}
    (hin : s.input = .command w :: rest) :
    step s = State.deliver (wordAnswer w s.toBlock) { s with input := rest } := by
  simp only [step, hin, wordAnswer]
  cases decodeFor s.par.w w with
  | ok i => exact exec_eq_deliver i _
  | error => rfl

end StepEquations

/-! ### What an invalid buffer holds is never observed (R21) -/

section Unobservable

variable {R : Type} {a b : Block R}

/-- Two answers that a host cannot tell apart, now or later. -/
structure SameAnswer (x y : Answer R) : Prop where
  block : SameValid x.block y.block
  reply : x.reply = y.reply

/-- Outside the three buffers the two blocks are the same. -/
theorem SameValid.eq_withBuffers (h : SameValid a b) : a = { b with fb := a.fb, xb := a.xb, mb := a.mb } := by
  obtain ⟨hq, hres, hph, hsc, herr, hcfg, hpar, hdraws, -, -, -⟩ := h
  rw [← hq, ← hres, ← hph, ← hsc, ← herr, ← hcfg, ← hpar, ← hdraws]

/-- What does not look at the buffers is equal. -/
theorem SameValid.congr {α : Type} (h : SameValid a b) (f : Block R → α)
    (hf : ∀ (c : Block R) fb xb mb, f { c with fb, xb, mb } = f c) : f a = f b := by
  rw [h.eq_withBuffers]
  exact hf _ _ _ _

theorem SameValid.logN (h : SameValid a b) : a.logN = b.logN := h.congr _ fun _ _ _ _ => rfl
theorem SameValid.n (h : SameValid a b) : a.n = b.n := h.congr _ fun _ _ _ _ => rfl
theorem SameValid.fs (h : SameValid a b) : a.fs = b.fs := h.congr _ fun _ _ _ _ => rfl
theorem SameValid.cfgErr (h : SameValid a b) : a.cfgErr = b.cfgErr := h.congr _ fun _ _ _ _ => rfl
theorem SameValid.queueFull (h : SameValid a b) : a.queueFull = b.queueFull := h.congr _ fun _ _ _ _ => rfl
theorem SameValid.frameQueued (h : SameValid a b) : a.frameQueued = b.frameQueued := h.congr _ fun _ _ _ _ => rfl
theorem SameValid.stageLegal (h : SameValid a b) (stage : Nat) : a.stageLegal stage = b.stageLegal stage :=
  h.congr _ fun _ _ _ _ => rfl
theorem SameValid.indexLegal (h : SameValid a b) (sp : Space) (i : Nat) : a.indexLegal sp i = b.indexLegal sp i :=
  h.congr _ fun _ _ _ _ => rfl

/-! A valid buffer reads alike. -/

theorem SameValid.fbAt (h : SameValid a b) (E : Env R) (hv : Space.validIn .fb a.ph = true) :
    a.fbAt E = b.fbAt E := by
  funext i
  rw [Block.fbAt, h.fb hv, Block.fbAt]

theorem SameValid.xbAt (h : SameValid a b) (E : Env R) (hv : Space.validIn .xbRe a.ph = true) :
    a.xbAt E = b.xbAt E := by
  funext i
  rw [Block.xbAt, h.xb hv, Block.xbAt]

theorem SameValid.mbAt (h : SameValid a b) (E : Env R) (hv : Space.validIn .mb a.ph = true) :
    a.mbAt E = b.mbAt E := by
  funext i
  rw [Block.mbAt, h.mb hv, Block.mbAt]

/-- A valid space holds the same entries in both blocks (R33). -/
theorem SameValid.entry (h : SameValid a b) (E : Env R) {sp : Space} (hv : sp.validIn a.ph = true) (i : Nat) :
    a.entry E sp i = b.entry E sp i := by
  cases sp with
  | fb => simp only [Block.entry, h.fbAt E hv]
  | xbRe | xbIm => simp only [Block.entry, h.xbAt E hv]
  | mb => simp only [Block.entry, h.mbAt E hv]
  | cfg | status | qlen | res | wrom | tromRe | tromIm =>
    exact h.congr (Block.entry E _ i) fun _ _ _ _ => rfl

theorem SameValid.bandE (h : SameValid a b) (E : Env R) (hv : Space.validIn .mb a.ph = true) (lo hi : Int) :
    a.bandE E lo hi = b.bandE E lo hi := by
  rw [Block.bandE, h.fs, h.logN, h.mbAt E hv, Block.bandE]

/-! The writers: each computes from valid buffers alone, and writes the same list. -/

theorem SameValid.recordErr (h : SameValid a b) (c : Status) : SameValid (a.recordErr c) (b.recordErr c) :=
  { h with err := congrArg (Err.record c) h.err }

theorem SameValid.pushSample (h : SameValid a b) (v : R) : SameValid (a.pushSample v) (b.pushSample v) :=
  { h with q := congrArg (· ++ [v]) h.q }

theorem SameValid.staleRes (h : SameValid a b) (E : Env R) : SameValid (a.staleRes E) (b.staleRes E) :=
  { h with
    res := by simp only [staleRes_res, h.draws]
    draws := congrArg (· + 3) h.draws }

theorem SameValid.reset (h : SameValid a b) (E : Env R) (fs : BitVec 32) (l : BitVec 5) :
    SameValid (a.reset E fs l) (b.reset E fs l) where
  q := rfl
  res := by simp only [reset_res, h.draws]
  ph := rfl
  sc := rfl
  err := rfl
  cfg := rfl
  par := h.par
  draws := congrArg (· + 3) h.draws
  fb _ := rfl
  xb _ := rfl
  mb _ := rfl

/-- A phase may be entered when the buffers it makes valid are equal. -/
theorem SameValid.enter (h : SameValid a b) {ph : Phase} {sc sc' : BitVec 5} (hsc : sc = sc')
    (fb : Space.validIn .fb ph = true → a.fb = b.fb) (xb : Space.validIn .xbRe ph = true → a.xb = b.xb)
    (mb : Space.validIn .mb ph = true → a.mb = b.mb) : SameValid (a.enter ph sc) (b.enter ph sc') :=
  { h with ph := rfl, sc := hsc, fb, xb, mb }

theorem SameValid.extractFrame (h : SameValid a b) : SameValid a.extractFrame b.extractFrame :=
  { h with
    q := congrArg₂ List.drop h.n h.q
    fb := fun _ => congrArg₂ List.take h.n h.q }

theorem SameValid.xfrmEffect (h : SameValid a b) : SameValid a.xfrmEffect b.xfrmEffect :=
  h.extractFrame.enter rfl (fun _ => congrArg₂ List.take h.n h.q) nofun nofun

theorem SameValid.writeFb (h : SameValid a b) {f g : Nat → R} (hfg : f = g) :
    SameValid (a.writeFb f) (b.writeFb g) :=
  { h with fb := fun _ => congrArg₂ tabulate h.n hfg }

theorem SameValid.writeXb (h : SameValid a b) {f g : Nat → Cplx R} (hfg : f = g) :
    SameValid (a.writeXb f) (b.writeXb g) :=
  { h with xb := fun _ => congrArg₂ tabulate h.n hfg }

theorem SameValid.writeMb (h : SameValid a b) {f g : Nat → R} (hfg : f = g) :
    SameValid (a.writeMb f) (b.writeMb g) :=
  { h with mb := fun _ => congrArg₂ tabulate (congrArg (· / 2) h.n) hfg }

theorem SameValid.winEffect (h : SameValid a b) (E : Env R) (hv : Space.validIn .fb a.ph = true) :
    SameValid (a.winEffect E) (b.winEffect E) :=
  have hwin : SameValid (a.writeFb _) (b.writeFb _) :=
    h.writeFb (congrArg₂ (windowAt E.num) h.n (h.fbAt E hv))
  hwin.enter rfl (fun _ => hwin.fb hv) nofun nofun

/-- The shape of LDC, BREV and STG: `FB` was valid, `XB` is written, `MB` is not made valid. -/
theorem SameValid.writeXb_enter (h : SameValid a b) (ph : Phase) (sc : BitVec 5)
    (hv : Space.validIn .fb a.ph = true) {f g : Nat → Cplx R} (hfg : f = g) (hmb : Space.validIn .mb ph ≠ true) :
    SameValid ((a.writeXb f).enter ph sc) ((b.writeXb g).enter ph sc) :=
  (h.writeXb hfg).enter rfl (fun _ => h.fb hv) (fun _ => congrArg₂ tabulate h.n hfg) fun hph => absurd hph hmb

/-- Whenever `XB` is valid, `FB` is too (R21). -/
theorem fb_validIn_of_xb {ph : Phase} (hv : Space.validIn .xbRe ph = true) : Space.validIn .fb ph = true := by
  cases ph with
  | idle => exact hv
  | frame | windowed | loaded | stages | mags => rfl

theorem SameValid.ldcEffect (h : SameValid a b) (E : Env R) (hv : Space.validIn .fb a.ph = true) :
    SameValid (a.ldcEffect E) (b.ldcEffect E) :=
  h.writeXb_enter .loaded _ hv (by rw [h.fbAt E hv]) nofun

theorem SameValid.brevEffect (h : SameValid a b) (E : Env R) (hv : Space.validIn .xbRe a.ph = true) :
    SameValid (a.brevEffect E) (b.brevEffect E) :=
  h.writeXb_enter .stages _ (fb_validIn_of_xb hv) (by rw [h.logN, h.xbAt E hv]) nofun

theorem SameValid.stgEffect (h : SameValid a b) (E : Env R) (hv : Space.validIn .xbRe a.ph = true) (stage : Nat) :
    SameValid (a.stgEffect E stage) (b.stgEffect E stage) :=
  h.writeXb_enter .stages _ (fb_validIn_of_xb hv) (by rw [h.logN, h.xbAt E hv]) nofun

theorem SameValid.stagesEffect (h : SameValid a b) (E : Env R) (hv : Space.validIn .xbRe a.ph = true) (k : Nat) :
    SameValid (a.stagesEffect E k) (b.stagesEffect E k) := by
  induction k with
  | zero => exact h.brevEffect E hv
  | succ k ih => exact ih.stgEffect E (by rw [stagesEffect_ph]; rfl) (k + 1)

theorem SameValid.fftEffect (h : SameValid a b) (E : Env R) (hv : Space.validIn .xbRe a.ph = true) :
    SameValid (a.fftEffect E) (b.fftEffect E) := by
  rw [Block.fftEffect, Block.fftEffect, ← h.logN]
  exact h.stagesEffect E hv a.logN

theorem SameValid.magEffect (h : SameValid a b) (E : Env R) (hv : Space.validIn .xbRe a.ph = true) :
    SameValid (a.magEffect E) (b.magEffect E) :=
  have hmag : magnitudeAt E.num (a.xbAt E) = magnitudeAt E.num (b.xbAt E) := congrArg _ (h.xbAt E hv)
  (h.writeMb hmag).enter h.sc (fun _ => h.fb (fb_validIn_of_xb hv)) (fun _ => h.xb hv)
    fun _ => congrArg₂ tabulate (congrArg (· / 2) h.n) hmag

theorem SameValid.bandsEffect (h : SameValid a b) (E : Env R) (hv : Space.validIn .mb a.ph = true) :
    SameValid (a.bandsEffect E) (b.bandsEffect E) :=
  { h with
    res := by
      simp only [Block.bandsEffect, Block.bassBand, Block.midBand, Block.trebleBand, writeRes_res, h.bandE E hv] }

/-- PROC makes every buffer that it reads valid before it reads it (R79). -/
theorem SameValid.procEffect (h : SameValid a b) (E : Env R) : SameValid (a.procEffect E) (b.procEffect E) := by
  have hldc := (h.xfrmEffect.winEffect E rfl).ldcEffect E rfl
  have hmag := (hldc.fftEffect E rfl).magEffect E (by rw [fftEffect_ph]; rfl)
  exact hmag.bandsEffect E rfl

/-! The commands: the checks see no buffer, and a command that passes them finds what it reads valid. -/

theorem SameValid.respond (h : SameValid a b) {d e : Datum R} (hde : d = e) :
    SameAnswer (a.respond d) (b.respond e) := ⟨h, congrArg (Reply.mk .ok) hde⟩

theorem SameValid.notReady (h : SameValid a b) : SameAnswer a.notReady b.notReady := ⟨h, rfl⟩

theorem SameValid.raise (h : SameValid a b) (c : Status) : SameAnswer (a.raise c) (b.raise c) :=
  ⟨h.recordErr c, rfl⟩

theorem SameValid.guarded (h : SameValid a b) {c o q c' o' q' : Bool} {f g : Block R → Answer R}
    (hc : c = c') (ho : o = o') (hq : q = q') (hbody : q = false → SameAnswer (f a) (g b)) :
    SameAnswer (a.guarded c o q f) (b.guarded c' o' q' g) := by
  subst hc ho hq
  rw [guarded_eq_ite, guarded_eq_ite]
  split
  · exact h.raise .cfgerr
  · split
    · exact h.raise .operr
    · split
      · exact h.raise .seqerr
      · next hseq => exact hbody (Bool.eq_false_of_not_eq_true hseq)

theorem SameValid.readBack (h : SameValid a b) (E : Env R) (sp : Space) (i : Nat) :
    SameAnswer (a.readBack E sp i) (b.readBack E sp i) :=
  h.guarded (by rw [h.cfgErr]) (by rw [h.indexLegal]) (by rw [h.ph]) fun hseq =>
    h.respond (h.entry E (by simpa using hseq) i)

theorem SameValid.feed (h : SameValid a b) {v w : R} (hvw : v = w) : SameAnswer (a.feed v) (b.feed w) :=
  h.guarded h.cfgErr rfl rfl fun _ => by
    rw [h.queueFull, hvw]
    split
    · exact h.raise .qfull
    · exact (h.pushSample w).respond rfl

theorem SameValid.xfrm (h : SameValid a b) : SameAnswer a.xfrm b.xfrm :=
  h.guarded h.cfgErr rfl rfl fun _ => by
    rw [h.frameQueued]
    split
    · exact h.xfrmEffect.respond rfl
    · exact h.notReady

theorem SameValid.proc (h : SameValid a b) (E : Env R) : SameAnswer (a.proc E) (b.proc E) :=
  h.guarded h.cfgErr rfl rfl fun _ => by
    rw [h.frameQueued]
    split
    · exact (h.procEffect E).respond rfl
    · exact (h.staleRes E).notReady

theorem SameValid.win (h : SameValid a b) (E : Env R) : SameAnswer (a.win E) (b.win E) :=
  h.guarded h.cfgErr rfl (by rw [h.ph]) fun hseq => by
    have hph : a.ph = .frame := by simpa using hseq
    exact (h.winEffect E (by rw [hph]; rfl)).respond rfl

theorem SameValid.ldc (h : SameValid a b) (E : Env R) : SameAnswer (a.ldc E) (b.ldc E) :=
  h.guarded h.cfgErr rfl (by rw [h.ph]) fun hseq => by
    have hph : a.ph = .frame ∨ a.ph = .windowed := by simpa [or_iff_not_imp_left] using hseq
    exact (h.ldcEffect E (by rcases hph with hph | hph <;> rw [hph] <;> rfl)).respond rfl

theorem SameValid.brev (h : SameValid a b) (E : Env R) : SameAnswer (a.brev E) (b.brev E) :=
  h.guarded h.cfgErr rfl (by rw [h.ph]) fun hseq => by
    have hph : a.ph = .loaded := by simpa using hseq
    exact (h.brevEffect E (by rw [hph]; rfl)).respond rfl

theorem SameValid.stg (h : SameValid a b) (E : Env R) (stage : Nat) : SameAnswer (a.stg E stage) (b.stg E stage) :=
  h.guarded h.cfgErr (by rw [h.stageLegal]) (by rw [h.ph, h.sc]) fun hseq => by
    obtain ⟨hph, -⟩ : a.ph = .stages ∧ a.sc.toNat + 1 = stage := by simpa using hseq
    exact (h.stgEffect E (by rw [hph]; rfl) stage).respond rfl

theorem SameValid.fft (h : SameValid a b) (E : Env R) : SameAnswer (a.fft E) (b.fft E) :=
  h.guarded h.cfgErr rfl (by rw [h.ph]) fun hseq => by
    have hph : a.ph = .loaded := by simpa using hseq
    exact (h.fftEffect E (by rw [hph]; rfl)).respond rfl

theorem SameValid.magnitudes (h : SameValid a b) (E : Env R) : SameAnswer (a.magnitudes E) (b.magnitudes E) :=
  h.guarded h.cfgErr rfl (by rw [h.ph, h.sc, h.logN]) fun hseq => by
    obtain ⟨hph, -⟩ : a.ph = .stages ∧ a.sc.toNat = a.logN := by simpa using hseq
    exact (h.magEffect E (by rw [hph]; rfl)).respond rfl

theorem SameValid.band (h : SameValid a b) (E : Env R) (minHz maxHz : Int) :
    SameAnswer (a.band E minHz maxHz) (b.band E minHz maxHz) :=
  h.guarded h.cfgErr rfl (by rw [h.ph]) fun hseq => by
    have hph : a.ph = .mags := by simpa using hseq
    exact h.respond (congrArg Datum.num (h.bandE E (by rw [hph]; rfl) minHz maxHz))

theorem SameValid.bands (h : SameValid a b) (E : Env R) : SameAnswer (a.bands E) (b.bands E) :=
  h.guarded h.cfgErr rfl (by rw [h.ph]) fun hseq => by
    have hph : a.ph = .mags := by simpa using hseq
    exact (h.bandsEffect E (by rw [hph]; rfl)).respond rfl

end Unobservable

section UnobservableSteps

/-- Every command answers the two blocks alike. -/
theorem SameValid.answer {a b : Block NumR} (h : SameValid a b) (i : Instr) :
    SameAnswer (answer i a) (answer i b) := by
  unfold Machine.answer
  rw [env_congr h.par]
  cases i with
  | feed sbits => exact h.feed (h.congr (Block.sampleOf sbits) fun _ _ _ _ => rfl)
  | xfrm => exact h.xfrm
  | proc => exact h.proc _
  | win => exact h.win _
  | ldc => exact h.ldc _
  | brev => exact h.brev _
  | stg stage => exact h.stg _ stage
  | fft => exact h.fft _
  | mag => exact h.magnitudes _
  | band minHz maxHz => exact h.band _ minHz maxHz
  | bands => exact h.bands _
  | rdcfg | rdstat | rdqlen | rdres | rdfb | rdxr | rdxi | rdmb | rdwin | rdtwr | rdtwi =>
    exact h.readBack _ _ _

theorem SameValid.wordAnswer {a b : Block NumR} (h : SameValid a b) (w : CommandWord) :
    SameAnswer (wordAnswer w a) (wordAnswer w b) := by
  unfold Machine.wordAnswer
  rw [h.par]
  cases decodeFor b.par.w w with
  | ok i => exact h.answer i
  | error => exact h.raise .illcmd

/-- Settles O20: a step does nothing, resets the block, or delivers the answer to a word. -/
theorem invalidBuffersUnobservable : Obligations.InvalidBuffersUnobservable := by
  intro s t h hin hout
  cases hs : s.input with
  | nil => exact ⟨s, t, step_idle hs, step_idle (hin ▸ hs), h, hin, hout⟩
  | cons e rest =>
    have ht := hin ▸ hs
    cases e with
    | reset fs l =>
      refine ⟨_, _, step_reset hs, step_reset ht, ?_, rfl, hout⟩
      exact env_congr h.par ▸ h.reset s.env fs l
    | command w =>
      obtain ⟨hblock, hreply⟩ := h.wordAnswer w
      refine ⟨_, _, step_command hs, step_command ht, hblock, rfl, ?_⟩
      simp only [hout, hreply, h.par]

end UnobservableSteps

/-! ### Every command answers as the tables say (R96, R99, R102, R109) -/

section AnswerTable

/-- The answer of a command that passes every check (R52 to R94). -/
def okAnswer (i : Instr) (b : Block NumR) : Answer NumR :=
  match i with
  | .feed sbits => (b.pushSample (b.sampleOf sbits)).respond (.int 0)
  | .proc => (b.procEffect b.env).respond (.int 0)
  | .xfrm => b.xfrmEffect.respond (.int 0)
  | .win => (b.winEffect b.env).respond (.int 0)
  | .ldc => (b.ldcEffect b.env).respond (.int 0)
  | .brev => (b.brevEffect b.env).respond (.int 0)
  | .stg stage => (b.stgEffect b.env stage).respond (.int 0)
  | .fft => (b.fftEffect b.env).respond (.int 0)
  | .mag => (b.magEffect b.env).respond (.int 0)
  | .band minHz maxHz => b.respond (.num (b.bandE b.env minHz maxHz))
  | .bands => (b.bandsEffect b.env).respond (.int 0)
  | .rdcfg idx => b.respond (b.entry b.env .cfg idx)
  | .rdstat => b.respond (b.entry b.env .status 0)
  | .rdqlen => b.respond (b.entry b.env .qlen 0)
  | .rdres idx => b.respond (b.entry b.env .res idx)
  | .rdfb idx => b.respond (b.entry b.env .fb idx)
  | .rdxr idx => b.respond (b.entry b.env .xbRe idx)
  | .rdxi idx => b.respond (b.entry b.env .xbIm idx)
  | .rdmb idx => b.respond (b.entry b.env .mb idx)
  | .rdwin idx => b.respond (b.entry b.env .wrom idx)
  | .rdtwr idx => b.respond (b.entry b.env .tromRe idx)
  | .rdtwi idx => b.respond (b.entry b.env .tromIm idx)

/-- The block after `NOTREADY`: PROC marks the result stale, XFRM changes nothing (R53, R79). -/
def notReadyBlock (i : Instr) (b : Block NumR) : Block NumR :=
  if i = .proc then b.staleRes b.env else b

/-- The answer of a command whose status is `c`: its work, `NOTREADY`, or a raise (R95). -/
def answerWith (c : Status) (i : Instr) (b : Block NumR) : Answer NumR :=
  match c with
  | .ok => okAnswer i b
  | .notready => (notReadyBlock i b).notReady
  | .illcmd | .operr | .seqerr | .cfgerr | .qfull => b.raise c

variable {i : Instr} {b : Block NumR}

/-- A guarded command whose checks are those of the tables answers as the tables say. -/
theorem guarded_eq_answerWith {c o q : Bool} {body : Block NumR → Answer NumR}
    (hc : c = (!tableSkipsCfg i && b.cfgErr)) (ho : o = tableOperandBad i b.logN)
    (hq : q = !tableAllows i b.ph b.sc.toNat b.logN) (hbody : body b = answerWith (tableData i b) i b) :
    b.guarded c o q body = answerWith (tableStatus i b) i b := by
  subst hc ho hq
  rw [guarded_eq_ite, tableStatus, hbody]
  split
  · rfl
  · split
    · rfl
    · split <;> rfl

theorem not_frameQueued_iff (b : Block NumR) : ¬ b.frameQueued = true ↔ b.q.length < b.n := by
  rw [frameQueued_iff, not_le]

/-- Every command answers with the status of the tables, and accordingly. The four goals of each case are the checks of
R102 (configuration, operand, phase) and the command's own work. -/
theorem answer_eq_answerWith (i : Instr) (b : Block NumR) : answer i b = answerWith (tableStatus i b) i b := by
  cases i with
  | feed sbits =>
    rw [answer, Block.feed]
    refine guarded_eq_answerWith ?_ ?_ ?_ ?_
    · rfl
    · rfl
    · rfl
    · simp only [tableData, queueFull_iff]
      split <;> rfl
  | proc | xfrm =>
    simp only [answer, Block.proc, Block.xfrm]
    refine guarded_eq_answerWith ?_ ?_ ?_ ?_
    · rfl
    · rfl
    · rfl
    · simp only [tableData, ← not_frameQueued_iff, ite_not]
      split <;> rfl
  | win | ldc | brev | fft | mag | band | bands =>
    simp only [answer, Block.win, Block.ldc, Block.brev, Block.fft, Block.magnitudes, Block.band, Block.bands]
    refine guarded_eq_answerWith ?_ ?_ ?_ ?_
    · rfl
    · rfl
    · cases b.ph <;> rfl
    · rfl
  | stg stage =>
    rw [answer, Block.stg]
    refine guarded_eq_answerWith ?_ ?_ ?_ ?_
    · rfl
    · rw [Bool.eq_iff_iff]
      simp [Block.stageLegal, tableOperandBad]
    · cases b.ph <;> rfl
    · rfl
  | rdcfg | rdstat | rdqlen | rdres | rdfb | rdxr | rdxi | rdmb | rdwin | rdtwr | rdtwi =>
    rw [answer, Block.readBack]
    refine guarded_eq_answerWith ?_ ?_ ?_ ?_
    · exact Bool.and_comm _ _
    · have hn : b.n = 2 ^ b.logN := rfl
      rw [Bool.eq_iff_iff]
      simp [Block.indexLegal, tableOperandBad, hn]
    · cases b.ph <;> rfl
    · rfl

end AnswerTable

/-! ### Which status a command can answer with (R96) -/

section StatusTable

variable {i : Instr} {b : Block NumR}

theorem tableData_cases (i : Instr) (b : Block NumR) :
    tableData i b = .ok ∨ tableData i b = .notready ∨ (tableData i b = .qfull ∧ ∃ sbits, i = .feed sbits) := by
  cases i with
  | feed sbits =>
    rw [tableData]
    split
    · exact .inr (.inr ⟨rfl, sbits, rfl⟩)
    · exact .inl rfl
  | proc | xfrm =>
    rw [tableData]
    split
    · exact .inr (.inl rfl)
    · exact .inl rfl
  | _ => exact .inl rfl

/-- What each status says of the checks and of the command (R102). -/
theorem tableStatus_cases (i : Instr) (b : Block NumR) :
    tableStatus i b = .cfgerr ∨
    (tableStatus i b = .operr ∧ tableOperandBad i b.logN = true) ∨
    (tableStatus i b = .seqerr ∧ tableAllows i b.ph b.sc.toNat b.logN = false) ∨
    (tableStatus i b = .ok ∧ tableOperandBad i b.logN = false ∧ tableAllows i b.ph b.sc.toNat b.logN = true) ∨
    tableStatus i b = .notready ∨
    (tableStatus i b = .qfull ∧ ∃ sbits, i = .feed sbits) := by
  unfold tableStatus
  split
  · exact .inl rfl
  · split
    · next hop => exact .inr (.inl ⟨rfl, hop⟩)
    · next hop =>
      split
      · next hseq => exact .inr (.inr (.inl ⟨rfl, by simpa using hseq⟩))
      · next hseq =>
        obtain hok | hnot | hfull := tableData_cases i b
        · exact .inr (.inr (.inr (.inl ⟨hok, Bool.eq_false_of_not_eq_true hop, by simpa using hseq⟩)))
        · exact .inr (.inr (.inr (.inr (.inl hnot))))
        · exact .inr (.inr (.inr (.inr (.inr hfull))))

theorem operandBad_of_operr (h : tableStatus i b = .operr) : tableOperandBad i b.logN = true := by
  simpa [h] using tableStatus_cases i b

theorem not_allowed_of_seqerr (h : tableStatus i b = .seqerr) :
    tableAllows i b.ph b.sc.toNat b.logN = false := by
  simpa [h] using tableStatus_cases i b

theorem checks_of_ok (h : tableStatus i b = .ok) :
    tableOperandBad i b.logN = false ∧ tableAllows i b.ph b.sc.toNat b.logN = true := by
  simpa [h] using tableStatus_cases i b

theorem exists_feed_of_qfull (h : tableStatus i b = .qfull) : ∃ sbits, i = .feed sbits := by
  simpa [h] using tableStatus_cases i b

/-- No instruction answers `ILLCMD`: an illegal word spells none (R97). -/
theorem tableStatus_ne_illcmd (i : Instr) (b : Block NumR) : tableStatus i b ≠ .illcmd := fun h => by
  simpa [h] using tableStatus_cases i b

/-- STG answers `OK` only to a legal stage, in `STAGES` (R67). -/
theorem stg_checks_of_ok {stage : Nat} (h : tableStatus (.stg stage) b = .ok) :
    stage ≤ b.logN ∧ b.ph = .stages := by
  obtain ⟨hop, hseq⟩ := checks_of_ok h
  simp only [tableOperandBad, Bool.or_eq_false_iff, decide_eq_false_iff_not, not_lt] at hop
  simp only [tableAllows, List.contains_iff_mem, List.mem_singleton, Bool.and_eq_true] at hseq
  exact ⟨hop.2, hseq.1⟩

/-- The commands that R96 lists for `OPERR`. -/
theorem mnemonic_of_operr (h : tableStatus i b = .operr) : i.mnemonic ∈ ["STG", "RDCFG", "RDRES", "RDFB",
    "RDXR", "RDXI", "RDMB", "RDWIN", "RDTWR", "RDTWI"] := by
  have hbad := operandBad_of_operr h
  cases i with
  | stg | rdcfg | rdres | rdfb | rdxr | rdxi | rdmb | rdwin | rdtwr | rdtwi => simp [Instr.mnemonic]
  | feed | proc | xfrm | win | ldc | brev | fft | mag | band | bands | rdstat | rdqlen => cases hbad

/-- The commands that R96 lists for `SEQERR`. -/
theorem mnemonic_of_seqerr (h : tableStatus i b = .seqerr) : i.mnemonic ∈ ["WIN", "LDC", "BREV", "STG", "FFT",
    "MAG", "BAND", "BANDS", "RDFB", "RDXR", "RDXI", "RDMB"] := by
  have hseq := not_allowed_of_seqerr h
  cases i with
  | win | ldc | brev | stg | fft | mag | band | bands | rdfb | rdxr | rdxi | rdmb => simp [Instr.mnemonic]
  | feed | proc | xfrm | rdcfg | rdstat | rdqlen | rdres | rdwin | rdtwr | rdtwi => cases hseq

end StatusTable

/-! ### What each status leaves of the block -/

section AnswerFrame

variable {i : Instr} {b : Block NumR}

/-- PROC ends in `MAGS` with `SC = L` (R79). -/
theorem procEffect_sc (E : Env NumR) (b : Block NumR) : (b.procEffect E).sc = b.cfg.l :=
  (fftEffect_sc E _).trans (ofNat_logN _)

theorem procEffect_err (E : Env NumR) (b : Block NumR) : (b.procEffect E).err = b.err := fftEffect_err E _

/-- A command that answers `OK` records no error. -/
theorem okAnswer_err (i : Instr) (b : Block NumR) : (okAnswer i b).block.err = b.err := by
  cases i with
  | fft => exact fftEffect_err _ _
  | proc => exact procEffect_err _ _
  | _ => rfl

theorem notReadyBlock_eq_or (i : Instr) (b : Block NumR) :
    (i = .proc ∧ notReadyBlock i b = b.staleRes b.env) ∨ (i ≠ .proc ∧ notReadyBlock i b = b) := by
  unfold notReadyBlock
  split
  · next hproc => exact .inl ⟨hproc, rfl⟩
  · next hproc => exact .inr ⟨hproc, rfl⟩

/-- The sticky flags after a command record its status and nothing else (R95). -/
theorem answer_err (i : Instr) (b : Block NumR) : (answer i b).block.err = b.err.record (tableStatus i b) := by
  rw [answer_eq_answerWith]
  cases tableStatus i b with
  | ok => exact okAnswer_err i b
  | notready =>
    obtain ⟨-, h⟩ | ⟨-, h⟩ := notReadyBlock_eq_or i b <;> simp [answerWith, h]
  | illcmd | operr | seqerr | cfgerr | qfull => rfl

/-- The last paragraph of R109, for a command that answers `OK`. -/
theorem okAnswer_phase (h : tableStatus i b = .ok) :
    ((okAnswer i b).block.ph, (okAnswer i b).block.sc.toNat) = tableNext i b := by
  cases i with
  | stg stage =>
    obtain ⟨hstage, -⟩ := stg_checks_of_ok h
    have hmod : stage % 32 = stage := Nat.mod_eq_of_lt (hstage.trans_lt (logN_lt b))
    simp [okAnswer, Block.stgEffect, tableNext, hmod]
  | fft => simp [okAnswer, tableNext, Block.logN]
  | proc => exact congrArg (fun sc : BitVec 5 => (Phase.mags, sc.toNat)) (procEffect_sc b.env b)
  | _ => rfl

/-- Any other answer than `OK` leaves the phase and the stage count. -/
theorem answerWith_phase {c : Status} (hc : c ≠ .ok) (i : Instr) (b : Block NumR) :
    (answerWith c i b).block.ph = b.ph ∧ (answerWith c i b).block.sc = b.sc := by
  cases c with
  | ok => exact absurd rfl hc
  | notready =>
    obtain ⟨-, h⟩ | ⟨-, h⟩ := notReadyBlock_eq_or i b <;> simp [answerWith, h]
  | illcmd | operr | seqerr | cfgerr | qfull => exact ⟨rfl, rfl⟩

/-- Settles O10: the answer with status `OK` is in the phase of the table, and every other keeps it. -/
theorem phaseFollowsTable : Obligations.PhaseFollowsTable := by
  intro i s t h
  obtain ⟨ht, -, -⟩ := exec_eq_next h
  rw [ht, answer_eq_answerWith]
  refine ⟨fun hok => ?_, fun hne => answerWith_phase hne i s.toBlock⟩
  rw [hok]
  exact okAnswer_phase hok

/-- Settles O19, by the status of the answer. -/
theorem freshnessFlagRule : Obligations.FreshnessFlagRule := by
  intro i s t h
  obtain ⟨ht, -, -⟩ := exec_eq_next h
  rw [ht, answer_eq_answerWith]
  refine ⟨?_, ?_, fun hstale hfresh => ?_⟩
  · rintro (rfl | rfl) hok <;> rw [hok] <;> rfl
  · rintro rfl hnot
    rw [hnot]
    rfl
  · cases hc : tableStatus i s.toBlock with
    | ok =>
      cases i with
      | proc => exact absurd ⟨.inl rfl, hc⟩ hfresh
      | bands => exact absurd ⟨.inr rfl, hc⟩ hfresh
      | fft => exact fftEffect_res _ _
      | _ => rfl
    | notready =>
      obtain ⟨hproc, -⟩ | ⟨-, hkept⟩ := notReadyBlock_eq_or i s.toBlock
      · exact absurd ⟨hproc, hc⟩ hstale
      · exact congrArg Block.res hkept
    | illcmd | operr | seqerr | cfgerr | qfull => rfl

end AnswerFrame

/-! ### Who writes what (R32) -/

section Writers

/-- From `b` to `b'` only the parts differ that R32 lets the command `m` write; the sticky flags aside. -/
structure WritesOnly {R : Type} (m : String) (b b' : Block R) : Prop where
  q : b'.q ≠ b.q → m ∈ ["FEED", "XFRM", "PROC"]
  fb : b'.fb ≠ b.fb → m ∈ ["XFRM", "WIN", "PROC"]
  xb : b'.xb ≠ b.xb → m ∈ ["LDC", "BREV", "STG", "FFT", "PROC"]
  mb : b'.mb ≠ b.mb → m ∈ ["MAG", "PROC"]
  res : b'.res ≠ b.res → m ∈ ["BANDS", "PROC"]
  ph : b'.ph ≠ b.ph → m ∈ ["XFRM", "WIN", "LDC", "BREV", "FFT", "MAG", "PROC"]
  sc : b'.sc ≠ b.sc → m ∈ ["XFRM", "WIN", "LDC", "BREV", "STG", "FFT", "PROC"]
  draws : b'.draws ≠ b.draws → m ∈ ["PROC"]

theorem writesOnly_recordErr {R : Type} (m : String) (b : Block R) (c : Status) :
    WritesOnly m b (b.recordErr c) := by
  constructor <;> exact absurd rfl

/-- PROC may write every part but the sticky flags. -/
theorem writesOnly_proc {R : Type} (b b' : Block R) : WritesOnly "PROC" b b' := by
  constructor <;> simp

/-- STG leaves the phase, because it answers `OK` in `STAGES` alone. -/
theorem writesOnly_okAnswer {i : Instr} {b : Block NumR} (h : tableStatus i b = .ok) :
    WritesOnly i.mnemonic b (okAnswer i b).block := by
  cases i with
  | stg stage =>
    obtain ⟨-, hph⟩ := stg_checks_of_ok h
    constructor <;> simp [okAnswer, Instr.mnemonic, Block.stgEffect, hph]
  | proc => exact writesOnly_proc _ _
  | feed | xfrm | win | ldc | brev | fft | mag | bands =>
    constructor <;> simp [okAnswer, Instr.mnemonic, Block.xfrmEffect, Block.winEffect, Block.ldcEffect,
      Block.brevEffect, Block.magEffect, Block.bandsEffect]
  | band | rdcfg | rdstat | rdqlen | rdres | rdfb | rdxr | rdxi | rdmb | rdwin | rdtwr | rdtwi =>
    exact writesOnly_recordErr _ b .ok

theorem writesOnly_answer (i : Instr) (b : Block NumR) : WritesOnly i.mnemonic b (answer i b).block := by
  rw [answer_eq_answerWith]
  cases hc : tableStatus i b with
  | ok => exact writesOnly_okAnswer hc
  | notready =>
    obtain ⟨rfl, -⟩ | ⟨-, h⟩ := notReadyBlock_eq_or i b
    · exact writesOnly_proc _ _
    · rw [answerWith, h]
      exact writesOnly_recordErr _ b .notready
  | illcmd | operr | seqerr | cfgerr | qfull => exact writesOnly_recordErr _ b _

/-- Recording a status changes no sticky flag but its own (R95). -/
theorem eq_of_record_ne (e : Err) (c : Status) :
    ((e.record c).ill ≠ e.ill → c = .illcmd) ∧ ((e.record c).op ≠ e.op → c = .operr) ∧
    ((e.record c).seq ≠ e.seq → c = .seqerr) ∧ ((e.record c).qovf ≠ e.qovf → c = .qfull) := by
  cases c <;> simp

/-- Settles O18: the writers of the state's parts, and the commands that raise each error. -/
theorem onlyWritersChangeState : Obligations.OnlyWritersChangeState := by
  intro i s t h
  obtain ⟨ht, hin, -⟩ := exec_eq_next h
  obtain ⟨hcfg, hpar⟩ := change_cfg_par (change_answer i s.toBlock)
  have hw := writesOnly_answer i s.toBlock
  obtain ⟨hill, hop, hseq, hqovf⟩ := eq_of_record_ne s.err (tableStatus i s.toBlock)
  rw [← answer_err] at hill hop hseq hqovf
  rw [ht]
  refine ⟨hcfg, hpar, hin, hw.q, hw.fb, hw.xb, hw.mb, hw.res, hw.ph, hw.sc, ?_, fun hne => ?_, fun hne => ?_,
    fun hne => ?_, hw.draws⟩
  · exact of_not_not fun hne => tableStatus_ne_illcmd i _ (hill hne)
  · exact mnemonic_of_operr (hop hne)
  · exact mnemonic_of_seqerr (hseq hne)
  · obtain ⟨sbits, rfl⟩ := exists_feed_of_qfull (hqovf hne)
    exact List.mem_singleton.mpr rfl

end Writers

/-! ### The sticky flags (R95) -/

section StickyFlags

theorem effect_err {b b' : Block NumR} (h : b.Effect b') : b'.err = b.err := by
  cases h with
  | fft => exact fftEffect_err _ _
  | proc => exact procEffect_err _ _
  | _ => rfl

/-- A command leaves the sticky flags with one status recorded. -/
theorem change_err {b b' : Block NumR} (h : b.Change b') : ∃ c, b'.err = b.err.record c := by
  cases h with
  | kept => exact ⟨.ok, rfl⟩
  | raised c => exact ⟨c, rfl⟩
  | worked _ heffect => exact ⟨.ok, effect_err heffect⟩

/-- Recording a status clears no sticky flag. -/
theorem record_keeps_set (e : Err) (c : Status) :
    (e.ill = true → (e.record c).ill = true) ∧ (e.op = true → (e.record c).op = true) ∧
    (e.seq = true → (e.record c).seq = true) ∧ (e.qovf = true → (e.record c).qovf = true) := by
  cases c <;> simp

theorem head?_ne_reset {events : List HostEvent} (h : noReset (events.take 1) = true) (fs : BitVec 32)
    (l : BitVec 5) : events.head? ≠ some (.reset fs l) := by
  intro hhead
  obtain ⟨rest, rfl⟩ := List.head?_eq_some_iff.mp hhead
  simp [noReset] at h

/-- Settles O13: a step that is no reset records one status. -/
theorem stickyFlagsClearedOnlyByReset : Obligations.StickyFlagsClearedOnlyByReset := by
  intro s t hstep hnoReset
  obtain ⟨fs, l, hhead, -⟩ | hchange := step_reset_or_change hstep
  · exact absurd hhead (head?_ne_reset hnoReset fs l)
  · obtain ⟨c, hc⟩ := change_err hchange
    rw [hc]
    exact record_keeps_set s.err c

end StickyFlags

/-! ### Reset (R107) -/

section ResetValues

variable {R : Type} (E : Env R) (fs : BitVec 32) (l : BitVec 5) (b : Block R)

/-- The empty queue holds no frame, which has one sample at least. -/
theorem reset_rdy : (b.reset E fs l).rdy = false := by
  have hn : (b.reset E fs l).n ≠ 0 := (Nat.two_pow_pos _).ne'
  simp [Block.rdy, Block.frameQueued, hn]

/-- STATUS after a reset: `CFGERR` alone, if the straps are invalid (R26). -/
theorem reset_status :
    (b.reset E fs l).status = if (b.reset E fs l).cfgValid = true then 0#64 else 0x400#64 := by
  simp only [Block.status, reset_rdy, Block.cfgErr, reset_ph, reset_sc, reset_res, reset_err]
  cases (b.reset E fs l).cfgValid <;> decide

end ResetValues

/-- Settles O15: the step on a reset pulse is `Block.reset`. -/
theorem resetLeavesResetValues : Obligations.ResetLeavesResetValues :=
  fun s fs l _ hin =>
    ⟨_, step_reset hin, rfl, rfl, rfl, rfl, rfl, rfl, rfl, rfl, rfl, reset_status s.env fs l s.toBlock⟩

end Sys2Proof.Machine
end

section
/-! SUPPORT. Proofs about the ports and the sequencer: one command word a step, one legal response a word, the indices
of a stage, and the butterflies of a stage in any order. -/

namespace Sys2Proof.Machine

/-! ### A step runs the word the host presents (R36, R37) -/

section PresentedWord

/-- The answer to a word that decodes is the answer to its command. -/
theorem wordAnswer_of_decodes {w : CommandWord} {i : Instr} {b : Block NumR} (hd : decodeFor b.par.w w = .ok i) :
    wordAnswer w b = answer i b := by
  rw [wordAnswer, hd]

theorem step_of_decodes {s : State} {w : CommandWord} {rest : List HostEvent} {i : Instr}
    (hin : s.input = .command w :: rest) (hd : decodeFor s.par.w w = .ok i) :
    step s = exec i { s with input := rest } := by
  rw [step_command hin, wordAnswer_of_decodes hd, exec_eq_deliver]

/-- A table word of 72 bits is the command word (R44). -/
theorem tableWord_of_lt {w : Nat} (hw : w < 2 ^ 72) : tableWord 72 w = BitVec.ofNat 72 w := by
  rw [tableWord, Nat.mod_eq_of_lt hw]

/-- Settles O1: `withFetchWord` puts the word before the input, where the next step takes it. -/
theorem stepRunsDecodedCommand : Obligations.StepRunsDecodedCommand := by
  refine ⟨fun s w rest i => step_of_decodes, fun s w i hw hd => ?_, fun s => step_idle⟩
  rw [← tableWord_of_lt hw] at hd
  exact step_of_decodes (s := s.withFetchWord 72 w) rfl hd

end PresentedWord

/-! ### Every word is answered by one legal response (R43, R46) -/

section Responses

/-! The fields of a response word. -/

theorem reserved_responseWord (c : Status) (d : Data) : (responseWord c d).extractLsb' 68 4 = 0#4 := by
  rw [responseWord, BitVec.extractLsb'_append_eq_of_le (by decide)]
  exact BitVec.extractLsb'_append_eq_left

theorem codeField_responseWord (c : Status) (d : Data) : codeField (responseWord c d) = c.code := by
  rw [codeField, responseWord, BitVec.extractLsb'_append_eq_of_le (by decide)]
  exact BitVec.extractLsb'_append_eq_right

theorem dataField_responseWord (c : Status) (d : Data) : dataField (responseWord c d) = d :=
  BitVec.extractLsb'_append_eq_right

theorem code_toNat_le (c : Status) : c.code.toNat ≤ 6 := by
  cases c <;> decide

theorem responseLegal_responseWord {c : Status} {d : Data} (h : c = .ok ∨ d = 0#64) :
    responseLegal (responseWord c d) = true := by
  have hdata : c.code = 0#4 ∨ d = 0#64 := h.imp_left (congrArg Status.code)
  simp [responseLegal, reserved_responseWord, codeField_responseWord, dataField_responseWord, code_toNat_le, hdata]

theorem okAnswer_status (i : Instr) (b : Block NumR) : (okAnswer i b).reply.status = .ok := by
  cases i <;> rfl

/-- A command answers with the status of the tables, and with data only if that is `OK` (R46, R95). -/
theorem answer_word (W : Nat) (i : Instr) (b : Block NumR) : ∃ d : Data,
    (answer i b).reply.word W = responseWord (tableStatus i b) d ∧ (tableStatus i b = .ok ∨ d = 0#64) := by
  rw [answer_eq_answerWith]
  cases tableStatus i b with
  | ok => exact ⟨_, congrArg (responseWord · _) (okAnswer_status i b), .inl rfl⟩
  | notready | illcmd | operr | seqerr | cfgerr | qfull => exact ⟨0#64, rfl, .inr rfl⟩

theorem wordAnswer_word_legal (W : Nat) (w : CommandWord) (b : Block NumR) :
    responseLegal ((wordAnswer w b).reply.word W) = true := by
  unfold wordAnswer
  cases decodeFor b.par.w w with
  | ok i =>
    obtain ⟨d, hword, hd⟩ := answer_word W i b
    exact hword ▸ responseLegal_responseWord hd
  | error => exact responseLegal_responseWord (c := .illcmd) (.inr rfl)

/-- Settles O8: the step on a word delivers the one answer to it. -/
theorem commandAnsweredOnce : Obligations.CommandAnsweredOnce :=
  fun s w _ hin => ⟨_, _, step_command hin, rfl, rfl, wordAnswer_word_legal s.par.w w s.toBlock⟩

end Responses

/-! ### The pairs of a stage (R42, R67) -/

section StagePairs

variable {l s c j i : Nat}

theorem stagePairs_eq_product (l s : Nat) :
    stagePairs l s = (List.range (2 ^ l / 2 ^ s)).product (List.range (2 ^ s / 2)) := rfl

theorem mem_stagePairs : (c, j) ∈ stagePairs l s ↔ c < 2 ^ l / 2 ^ s ∧ j < 2 ^ s / 2 := by
  rw [stagePairs_eq_product, List.pair_mem_product, List.mem_range, List.mem_range]

theorem nodup_stagePairs (l s : Nat) : (stagePairs l s).Nodup :=
  List.nodup_range.product List.nodup_range

/-- The upper index of a pair, and so the lower one, is an index of the buffer. -/
theorem upper_lt_of_mem_stagePairs (h : (c, j) ∈ stagePairs l s) : c * 2 ^ s + j + 2 ^ s / 2 < 2 ^ l := by
  obtain ⟨hc, hj⟩ := mem_stagePairs.mp h
  have hblock : (c + 1) * 2 ^ s ≤ 2 ^ l := Nat.mul_le_of_le_div _ _ _ hc
  rw [Nat.succ_mul] at hblock
  omega

theorem two_pow_half_add_half (hs : 1 ≤ s) : 2 ^ s / 2 + 2 ^ s / 2 = 2 ^ s := by
  rw [← Nat.mul_two, Nat.div_mul_cancel (dvd_pow_self 2 (by omega))]

/-- The twiddle of every offset of a stage is one of the ROM's `N/2` (R60). -/
theorem twiddleAddr_lt (hs : 1 ≤ s) (hsl : s ≤ l) (hj : j < 2 ^ s / 2) : twiddleAddr l s j < 2 ^ l / 2 := by
  have hN : 2 ^ s * 2 ^ (l - s) = 2 ^ l := by rw [← Nat.pow_add, Nat.add_sub_cancel' hsl]
  have hhalf : 2 ^ s / 2 * 2 ^ (l - s) = 2 ^ l / 2 := by
    rw [← hN, Nat.div_mul_right_comm (dvd_pow_self 2 (by omega))]
  rw [twiddleAddr, Nat.shiftLeft_eq, ← hhalf]
  exact Nat.mul_lt_mul_of_pos_right hj (Nat.two_pow_pos _)

/-- The bins that a band's loop visits are entries of `MB` (R73). -/
theorem band_bins_in_range (fs l : Nat) (lo hi : Int) : 0 ≤ binStart fs l lo ∧ binEnd fs l hi < 2 ^ l / 2 :=
  ⟨le_max_right _ _, (min_le_right _ _).trans_lt (Int.sub_one_lt_iff.mpr le_rfl)⟩

/-- Settles O54: the reversal, the twiddle, the pair and the bins. -/
theorem sequencerIndicesInRange : Obligations.SequencerIndicesInRange :=
  fun l _ hs hsl => ⟨rev_lt l, fun _ => twiddleAddr_lt hs hsl, fun _ _ => upper_lt_of_mem_stagePairs,
    fun fs lo hi _ => band_bins_in_range fs l lo hi⟩

/-! The pair of an index: `N` indices fall into `N/2` pairs of two. -/

/-- The block and the offset of the one pair of stage `s` that entry `i` belongs to. -/
def pairOf (s i : Nat) : Nat × Nat :=
  (i / 2 ^ s, if i % 2 ^ s < 2 ^ s / 2 then i % 2 ^ s else i % 2 ^ s - 2 ^ s / 2)

/-- Position `k` of block `c`. -/
theorem block_div_mod {k : Nat} (hk : k < 2 ^ s) : (c * 2 ^ s + k) / 2 ^ s = c ∧ (c * 2 ^ s + k) % 2 ^ s = k :=
  (Nat.div_mod_unique (Nat.two_pow_pos s)).mpr ⟨by rw [Nat.mul_comm, Nat.add_comm], hk⟩

theorem pairOf_eq_iff (hs : 1 ≤ s) (hj : j < 2 ^ s / 2) :
    pairOf s i = (c, j) ↔ i = c * 2 ^ s + j ∨ i = c * 2 ^ s + j + 2 ^ s / 2 := by
  have hhalf := two_pow_half_add_half hs
  constructor
  · intro h
    obtain ⟨rfl, hoff⟩ := Prod.mk.inj h
    have hi := Nat.div_add_mod' i (2 ^ s)
    split at hoff <;> omega
  · rintro (rfl | rfl)
    · obtain ⟨hdiv, hmod⟩ := block_div_mod (c := c) (k := j) (s := s) (by omega)
      rw [pairOf, hdiv, hmod, if_pos hj]
    · obtain ⟨hdiv, hmod⟩ := block_div_mod (c := c) (k := j + 2 ^ s / 2) (s := s) (by omega)
      rw [Nat.add_assoc, pairOf, hdiv, hmod, if_neg (by omega), Nat.add_sub_cancel]

theorem pairOf_mem_stagePairs (hs : 1 ≤ s) (hsl : s ≤ l) (hi : i < 2 ^ l) : pairOf s i ∈ stagePairs l s := by
  have hhalf := two_pow_half_add_half hs
  have hmod := Nat.mod_lt i (Nat.two_pow_pos s)
  refine mem_stagePairs.mpr ⟨Nat.div_lt_div_of_lt_of_dvd (Nat.pow_dvd_pow 2 hsl) hi, ?_⟩
  split <;> omega

end StagePairs

/-! ### The butterflies of a stage, one after another (R41, R67) -/

section ButterflyOrder

variable {R : Type} (K : Arith R) {l s c j : Nat}

/-- The two outputs of a butterfly are the entries that the stage writes at its pair. -/
theorem butterfly_eq_stageAt (hs : 1 ≤ s) (hj : j < 2 ^ s / 2) (x : Nat → Cplx R) :
    butterfly K (x (c * 2 ^ s + j)) (x (c * 2 ^ s + j + 2 ^ s / 2)) (twiddle K (twiddleAddr l s j) (2 ^ l)) =
      (stageAt K l s x (c * 2 ^ s + j), stageAt K l s x (c * 2 ^ s + j + 2 ^ s / 2)) := by
  have hhalf := two_pow_half_add_half hs
  obtain ⟨-, hlow⟩ := block_div_mod (c := c) (k := j) (s := s) (by omega)
  obtain ⟨-, hhigh⟩ := block_div_mod (c := c) (k := j + 2 ^ s / 2) (s := s) (by omega)
  rw [← Nat.add_assoc] at hhigh
  simp [stageAt, hlow, hhigh, hj]

theorem tabulate_set {α : Type} (n : Nat) (f : Nat → α) (p : Nat) (a : α) :
    (tabulate n f).set p a = tabulate n (Function.update f p a) := by
  ext1 i
  simp only [List.getElem?_set, tabulate_getElem?, tabulate_length, Function.update_apply, eq_comm (a := p)]
  split
  · next h => rw [h]
  · rfl

theorem eq_tabulate_getD {α : Type} (xs : List α) (d : Nat → α) :
    xs = tabulate xs.length fun i => xs.getD i (d i) := by
  refine List.ext_getElem (tabulate_length _ _).symm fun i hi _ => ?_
  rw [tabulate_getElem, List.getD_eq_getElem _ _ hi]

/-- The entries when the butterflies of the pairs `done` have run, and no others. -/
def stageAfter (l s : Nat) (x : Nat → Cplx R) (done : List (Nat × Nat)) (i : Nat) : Cplx R :=
  if pairOf s i ∈ done then stageAt K l s x i else x i

/-- One more butterfly: it reads what the stage started from, because no other pair has its indices. -/
theorem butterflyInPlace_stageAfter (hs : 1 ≤ s) (x : Nat → Cplx R) {done : List (Nat × Nat)} {cj : Nat × Nat}
    (hcj : cj ∈ stagePairs l s) (hnew : cj ∉ done) :
    butterflyInPlace K l s (tabulate (2 ^ l) (stageAfter K l s x done)) cj =
      tabulate (2 ^ l) (stageAfter K l s x (done ++ [cj])) := by
  obtain ⟨c, j⟩ := cj
  obtain ⟨-, hj⟩ := mem_stagePairs.mp hcj
  have hhigh := upper_lt_of_mem_stagePairs hcj
  have hpair := fun i => pairOf_eq_iff (i := i) (c := c) hs hj
  have hp : pairOf s (c * 2 ^ s + j) = (c, j) := (hpair _).mpr (.inl rfl)
  have hq : pairOf s (c * 2 ^ s + j + 2 ^ s / 2) = (c, j) := (hpair _).mpr (.inr rfl)
  have hbutterfly := butterfly_eq_stageAt K (c := c) (l := l) hs hj x
  have hread : ∀ i, pairOf s i = (c, j) → stageAfter K l s x done i = x i := fun i hi => by
    rw [stageAfter, hi, if_neg hnew]
  simp only [butterflyInPlace, tabulate_getElem?, if_pos hhigh, if_pos (Nat.lt_of_add_right_lt hhigh), hread _ hp,
    hread _ hq, hbutterfly, tabulate_set]
  refine tabulate_congr fun i _ => ?_
  by_cases hi : pairOf s i = (c, j)
  · rw [stageAfter, if_pos (by simp [hi])]
    obtain rfl | rfl := (hpair i).mp hi
    · rw [Function.update_of_ne (by omega), Function.update_self]
    · rw [Function.update_self]
  · obtain ⟨hnp, hnq⟩ := not_or.mp (mt (hpair i).mpr hi)
    rw [Function.update_of_ne hnq, Function.update_of_ne hnp]
    simp [stageAfter, hi]

theorem foldl_butterflyInPlace (hs : 1 ≤ s) (x : Nat → Cplx R) {order : List (Nat × Nat)} (hnodup : order.Nodup)
    (hsub : order ⊆ stagePairs l s) :
    order.foldl (butterflyInPlace K l s) (tabulate (2 ^ l) x) = tabulate (2 ^ l) (stageAfter K l s x order) := by
  induction order using List.reverseRecOn with
  | nil => rfl
  | append_singleton done cj ih =>
    obtain ⟨hdone, -, hnew⟩ := List.nodup_append'.mp hnodup
    obtain ⟨hsubDone, hcj⟩ := List.append_subset.mp hsub
    rw [List.foldl_append, ih hdone hsubDone]
    exact butterflyInPlace_stageAfter K hs x (hcj List.mem_cons_self) (by simpa using hnew)

end ButterflyOrder

/-- Settles O31: any order runs the butterfly of each pair once, and every index is in a pair. -/
theorem butterflyOrderIsFree : Obligations.ButterflyOrderIsFree := by
  intro R K l s xs d order hs hsl hlen hperm
  calc order.foldl (butterflyInPlace K l s) xs
    _ = order.foldl (butterflyInPlace K l s) (tabulate (2 ^ l) fun i => xs.getD i (d i)) := by
      rw [← hlen, ← eq_tabulate_getD]
    _ = tabulate (2 ^ l) (stageAfter K l s (fun i => xs.getD i (d i)) order) :=
      foldl_butterflyInPlace K hs _ (hperm.nodup_iff.mpr (nodup_stagePairs l s)) hperm.subset
    _ = tabulate (2 ^ l) (stageAt K l s fun i => xs.getD i (d i)) :=
      tabulate_congr fun i hi => if_pos (hperm.mem_iff.mpr (pairOf_mem_stagePairs hs hsl hi))

end Sys2Proof.Machine
end

section
/-! SUPPORT. Proofs about command words: the decoder opcode by opcode, the encoder against it, the opcode table, and the
run of `DRAIN`. -/

namespace Sys2Proof.Machine

/-! ### The decoder, by opcode and format (R45, R47) -/

section Formats

/-- The commands without an operand (format Z). -/
def plainCommands : List (BitVec 8 × Instr) :=
  [(0x02#8, .proc), (0x10#8, .xfrm), (0x11#8, .win), (0x12#8, .ldc), (0x13#8, .brev), (0x15#8, .fft),
    (0x16#8, .mag), (0x18#8, .bands), (0x21#8, .rdstat), (0x22#8, .rdqlen)]

/-- The commands with an index (format R). -/
def indexCommands : List (BitVec 8 × (Nat → Instr)) :=
  [(0x20#8, .rdcfg), (0x23#8, .rdres), (0x24#8, .rdfb), (0x25#8, .rdxr), (0x26#8, .rdxi), (0x27#8, .rdmb),
    (0x28#8, .rdwin), (0x29#8, .rdtwr), (0x2A#8, .rdtwi)]

theorem decodesZ_of_mem {op : BitVec 8} {i : Instr} (hc : (op, i) ∈ plainCommands) : decodesZ op i := by
  intro W p
  simp only [decodeFor, opField_append, payloadField_append]
  fin_cases hc <;> exact formatZ_eq p _

theorem decodesR_of_mem {op : BitVec 8} {c : Nat → Instr} (hc : (op, c) ∈ indexCommands) : decodesR op c := by
  intro W p
  simp only [decodeFor, opField_append, payloadField_append]
  fin_cases hc <;> exact formatR_eq p _

theorem decodeFor_stg (W : Nat) (p : Payload) : decodeFor W (0x14#8 ++ p) =
    if p.extractLsb' 8 56 = 0#56 then .ok (.stg (p.extractLsb' 0 8).toNat) else .error .mustBeZero := by
  simp only [decodeFor, opField_append, payloadField_append]
  exact formatG_eq p .stg

theorem decodeFor_band (W : Nat) (p : Payload) : decodeFor W (0x17#8 ++ p) =
    .ok (.band (p.extractLsb' 0 32).toInt (p.extractLsb' 32 32).toInt) := by
  simp only [decodeFor, opField_append, payloadField_append]
  rfl

theorem wellFormed_plain {op : BitVec 8} {i : Instr} (hc : (op, i) ∈ plainCommands) (W : Nat) :
    i.wellFormedFor W = true := by
  fin_cases hc <;> rfl

theorem encode_plain {op : BitVec 8} {i : Instr} (hc : (op, i) ∈ plainCommands) : encode i = op ++ 0#64 := by
  fin_cases hc <;> rfl

theorem wellFormed_index {op : BitVec 8} {c : Nat → Instr} (hc : (op, c) ∈ indexCommands) (W idx : Nat) :
    (c idx).wellFormedFor W = indexFits idx := by
  fin_cases hc <;> rfl

theorem encode_index {op : BitVec 8} {c : Nat → Instr} (hc : (op, c) ∈ indexCommands) (idx : Nat) :
    encode (c idx) = op ++ indexPayload idx := by
  fin_cases hc <;> rfl

theorem mnemonic_index {op : BitVec 8} {c : Nat → Instr} (hc : (op, c) ∈ indexCommands) (idx : Nat) :
    (c idx).mnemonic = (c 0).mnemonic := by
  fin_cases hc <;> rfl

end Formats

/-! ### Operands in their fields (R45) -/

section Operands

/-- A `k`-bit operand leaves the payload bits from `k` upwards 0. -/
theorem setWidth_ushiftRight_eq_zero {k : Nat} (v : BitVec k) : (v.setWidth 64 : Payload) >>> k = 0#64 := by
  rw [ushiftRight_eq_zero_iff_lt, BitVec.toNat_setWidth]
  exact (Nat.mod_le _ _).trans_lt v.isLt

/-- An operand that fits its field is read back from it. -/
theorem toNat_operand_ofNat {k n : Nat} (hk : k ≤ 64) (hn : n < 2 ^ k) :
    (((BitVec.ofNat k n).setWidth 64 : Payload).extractLsb' 0 k).toNat = n := by
  rw [← setWidth_eq_extractLsb', BitVec.setWidth_setWidth_of_le _ hk, BitVec.setWidth_eq, BitVec.toNat_ofNat,
    Nat.mod_eq_of_lt hn]

/-- A payload with nothing above its operand is that operand. -/
theorem ofNat_toNat_operand {k : Nat} {p : Payload} (hp : p >>> k = 0#64) :
    (BitVec.ofNat k (p.extractLsb' 0 k).toNat).setWidth 64 = p := by
  rw [BitVec.ofNat_toNat, BitVec.setWidth_eq, ← setWidth_eq_extractLsb', setWidth_setWidth_of_ushiftRight p k hp]

theorem hzFits_iff (hz : Int) : hzFits hz = true ↔ -2 ^ 31 ≤ hz ∧ hz < 2 ^ 31 := by
  simp [hzFits]

theorem hzFits_toInt (v : BitVec 32) : hzFits v.toInt = true :=
  (hzFits_iff _).mpr ⟨v.le_toInt, v.toInt_lt⟩

theorem toInt_ofInt_of_hzFits {hz : Int} (h : hzFits hz = true) : (BitVec.ofInt 32 hz).toInt = hz := by
  obtain ⟨hlow, hhigh⟩ := (hzFits_iff hz).mp h
  exact BitVec.toInt_ofInt_eq_self (by decide) hlow hhigh

/-- The two halves of a payload, put together (format B). -/
theorem extractLsb'_append_extractLsb'_halves (p : Payload) : p.extractLsb' 32 32 ++ p.extractLsb' 0 32 = p := by
  have h := BitVec.extractLsb'_append_extractLsb'_eq_extractLsb' (x := p) (start₁ := 0) (len₁ := 32) (len₂ := 32) rfl
  exact h.trans BitVec.extractLsb'_eq_self

end Operands

/-! ### Decoding what was encoded (R44, R45) -/

section DecodeEncode

theorem decodeFor_encode_index {op : BitVec 8} {c : Nat → Instr} (hc : (op, c) ∈ indexCommands) (W : Nat)
    {idx : Nat} (hidx : indexFits idx = true) : decodeFor W (op ++ indexPayload idx) = .ok (c idx) := by
  rw [decodesR_of_mem hc, if_pos, indexPayload, toNat_operand_ofNat (by decide) (of_decide_eq_true hidx)]
  exact (ushiftRight_eq_zero_iff _ 32 32 rfl).mp (setWidth_ushiftRight_eq_zero _)

/-- Settles O3, format by format. -/
theorem decodeOfEncode : Obligations.DecodeOfEncode := by
  intro W i hwf
  cases i with
  | feed sbits =>
    rw [encode, commandWord, decodeFor_feed, if_pos]
    exact (ushiftRight_eq_zero_iff_lt sbits W).mpr (of_decide_eq_true hwf)
  | stg stage =>
    rw [encode, commandWord, decodeFor_stg, if_pos, toNat_operand_ofNat (by decide) (of_decide_eq_true hwf)]
    exact (ushiftRight_eq_zero_iff _ 8 56 rfl).mp (setWidth_ushiftRight_eq_zero _)
  | band minHz maxHz =>
    obtain ⟨hmin, hmax⟩ := (Bool.and_eq_true _ _).mp hwf
    rw [encode, commandWord, decodeFor_band, BitVec.extractLsb'_append_eq_right, BitVec.extractLsb'_append_eq_left,
      toInt_ofInt_of_hzFits hmin, toInt_ofInt_of_hzFits hmax]
  | proc | xfrm | win | ldc | brev | fft | mag | bands | rdstat | rdqlen => rfl
  | rdcfg idx | rdres idx | rdfb idx | rdxr idx | rdxi idx | rdmb idx | rdwin idx | rdtwr idx | rdtwi idx =>
    exact decodeFor_encode_index (by simp [indexCommands]) W hwf

end DecodeEncode

/-! ### The rows of the table with their formats (R47) -/

section Spellings

/-- A row of R47 with its payload format: the operand is the low `width` bits of the payload, and `read` is the
command with that operand. -/
structure Spelling where
  mnemonic : String
  op : BitVec 8
  width : Nat
  read : Payload → Instr

/-- The row's `match` and `mask`: all bits but the operand's are fixed. -/
def Spelling.row (a : Spelling) : OpcodeRow := ⟨a.mnemonic, a.op ++ 0#64, maskS a.width⟩

/-- Format Z. -/
def Spelling.plain (c : BitVec 8 × Instr) : Spelling := ⟨c.2.mnemonic, c.1, 0, fun _ => c.2⟩
/-- Format S. -/
def Spelling.feed (W : Nat) : Spelling := ⟨"FEED", 0x01#8, W, .feed⟩
/-- Format G. -/
def Spelling.stg : Spelling := ⟨"STG", 0x14#8, 8, fun p => .stg (p.extractLsb' 0 8).toNat⟩
/-- Format B. -/
def Spelling.band : Spelling :=
  ⟨"BAND", 0x17#8, 64, fun p => .band (p.extractLsb' 0 32).toInt (p.extractLsb' 32 32).toInt⟩
/-- Format R. -/
def Spelling.index (c : BitVec 8 × (Nat → Instr)) : Spelling :=
  ⟨(c.2 0).mnemonic, c.1, 32, fun p => c.2 (p.extractLsb' 0 32).toNat⟩

/-- The rows that are the same for every `W`, by format. -/
def fixedSpellings : List Spelling :=
  .stg :: .band :: (plainCommands.map .plain ++ indexCommands.map .index)

/-- The 22 rows. -/
def spellings (W : Nat) : List Spelling := .feed W :: fixedSpellings

/-- Decoder, encoder and well-formedness follow the row; a payload that reaches above the operand is illegal (R48). -/
structure Spelling.Sound (W : Nat) (a : Spelling) : Prop where
  mnemonic (p : Payload) : (a.read p).mnemonic = a.mnemonic
  decodes (p : Payload) :
    decodeFor W (a.op ++ p) = if p >>> a.width = 0#64 then .ok (a.read p) else .error .mustBeZero
  wellFormed (p : Payload) : p >>> a.width = 0#64 → (a.read p).wellFormedFor W = true
  encodes (p : Payload) : p >>> a.width = 0#64 → encode (a.read p) = a.op ++ p

variable {W : Nat}

theorem sound_feed : (Spelling.feed W).Sound W where
  mnemonic _ := rfl
  decodes := decodeFor_feed W
  wellFormed p hp := decide_eq_true ((ushiftRight_eq_zero_iff_lt p W).mp hp)
  encodes _ _ := rfl

theorem sound_stg : Spelling.stg.Sound W where
  mnemonic _ := rfl
  decodes p := by
    simp only [ushiftRight_eq_zero_iff p Spelling.stg.width 56 rfl]
    exact decodeFor_stg W p
  wellFormed p _ := decide_eq_true (p.extractLsb' 0 8).isLt
  encodes _ hp := congrArg (0x14#8 ++ ·) (ofNat_toNat_operand hp)

theorem sound_band : Spelling.band.Sound W where
  mnemonic _ := rfl
  decodes p := (decodeFor_band W p).trans (if_pos ((ushiftRight_eq_zero_iff_lt p 64).mpr p.isLt)).symm
  wellFormed _ _ := (Bool.and_eq_true _ _).mpr ⟨hzFits_toInt _, hzFits_toInt _⟩
  encodes p _ := by
    simp only [Spelling.band, encode, commandWord, BitVec.ofInt_toInt, extractLsb'_append_extractLsb'_halves]

theorem sound_plain {c : BitVec 8 × Instr} (hc : c ∈ plainCommands) : (Spelling.plain c).Sound W where
  mnemonic _ := rfl
  decodes := decodesZ_of_mem hc W
  wellFormed _ _ := wellFormed_plain hc W
  encodes _ hp := (encode_plain hc).trans (congrArg (c.1 ++ ·) hp.symm)

theorem sound_index {c : BitVec 8 × (Nat → Instr)} (hc : c ∈ indexCommands) : (Spelling.index c).Sound W where
  mnemonic _ := mnemonic_index hc _
  decodes p := by
    simp only [ushiftRight_eq_zero_iff p (Spelling.index c).width 32 rfl]
    exact decodesR_of_mem hc W p
  wellFormed p _ := (wellFormed_index hc W _).trans (decide_eq_true (p.extractLsb' 0 32).isLt)
  encodes _ hp := (encode_index hc _).trans (congrArg (c.1 ++ ·) (ofNat_toNat_operand hp))

theorem sound_of_mem {a : Spelling} (ha : a ∈ spellings W) : a.Sound W := by
  simp only [spellings, fixedSpellings, List.mem_cons, List.mem_append, List.mem_map] at ha
  obtain rfl | rfl | rfl | ⟨c, hc, rfl⟩ | ⟨c, hc, rfl⟩ := ha
  · exact sound_feed
  · exact sound_stg
  · exact sound_band
  · exact sound_plain hc
  · exact sound_index hc

end Spellings

/-! ### Reserved opcodes (R48) -/

section ReservedOpcodes

/-- The opcode values that R48 lists as reserved. -/
def reservedOpcode (op : BitVec 8) : Prop :=
  op.toNat = 0x00 ∨ (0x03 ≤ op.toNat ∧ op.toNat ≤ 0x0F) ∨ (0x19 ≤ op.toNat ∧ op.toNat ≤ 0x1F) ∨ 0x2B ≤ op.toNat

variable {W : Nat} {w : CommandWord}

theorem exists_spelling_of_not_reserved {op : BitVec 8} (h : ¬ reservedOpcode op) :
    ∃ a ∈ spellings W, a.op = op := by
  simp only [spellings, fixedSpellings, plainCommands, indexCommands, Spelling.feed, Spelling.stg, Spelling.band,
    Spelling.plain, Spelling.index, List.map_cons, List.map_nil, List.cons_append, List.nil_append,
    List.exists_mem_cons_iff, List.not_mem_nil, false_and, exists_false, or_false]
  unfold reservedOpcode at h
  bv_omega

/-- A reserved opcode takes the decoder's last arm: it is the opcode of no other. -/
theorem decodeFor_of_reserved (h : reservedOpcode (opField w)) : decodeFor W w = .error .reservedOpcode := by
  unfold reservedOpcode at h
  unfold decodeFor
  split
  case h_23 => rfl
  all_goals omega

/-- A word with the opcode of a row decodes as the row says. -/
theorem decodeFor_eq_ite {a : Spelling} (ha : a ∈ spellings W) (hop : a.op = opField w) : decodeFor W w =
    if payloadField w >>> a.width = 0#64 then .ok (a.read (payloadField w)) else .error .mustBeZero := by
  rw [← (sound_of_mem ha).decodes, hop, ← eq_append_fields]

theorem decodeFor_ne_reserved (h : ¬ reservedOpcode (opField w)) : decodeFor W w ≠ .error .reservedOpcode := by
  obtain ⟨a, ha, hop⟩ := exists_spelling_of_not_reserved (W := W) h
  rw [decodeFor_eq_ite ha hop]
  split <;> nofun

/-- Settles O6: every opcode outside the ranges is that of a row. -/
theorem reservedOpcodesIllegal : Obligations.ReservedOpcodesIllegal :=
  fun _ _ => ⟨fun hd => of_not_not fun h => decodeFor_ne_reserved h hd, decodeFor_of_reserved⟩

end ReservedOpcodes

/-! ### The rows a word spells (R47, R48) -/

section TableRows

variable {W : Nat} {w : CommandWord} {i : Instr}

/-- What decodes has the opcode of a row and nothing above its operand. -/
theorem exists_spelling_of_decodes (hd : decodeFor W w = .ok i) : ∃ a ∈ spellings W,
    a.op = opField w ∧ payloadField w >>> a.width = 0#64 ∧ a.read (payloadField w) = i := by
  have hassigned : ¬ reservedOpcode (opField w) := fun h => by simp [decodeFor_of_reserved h] at hd
  obtain ⟨a, ha, hop⟩ := exists_spelling_of_not_reserved (W := W) hassigned
  rw [decodeFor_eq_ite ha hop] at hd
  split at hd
  · next hfits => exact ⟨a, ha, hop, hfits, Except.ok.inj hd⟩
  · cases hd

/-- Settles O4: the row that the word spells encodes its operand back. -/
theorem encodeOfDecode : Obligations.EncodeOfDecode := by
  intro W w i hd
  obtain ⟨a, ha, hop, hfits, rfl⟩ := exists_spelling_of_decodes hd
  have hsound := sound_of_mem ha
  refine ⟨hsound.wellFormed _ hfits, ?_⟩
  rw [hsound.encodes _ hfits, hop, ← eq_append_fields]

/-- A mask from bit `k` upwards sees no bit iff there is none. -/
theorem and_shiftLeft_allOnes_eq_zero_iff (p : Payload) (k : Nat) :
    p &&& (BitVec.allOnes 64 <<< k) = 0#64 ↔ p >>> k = 0#64 := by
  constructor
  · intro h
    apply BitVec.eq_of_getLsbD_eq
    intro i hi
    rw [BitVec.getLsbD_ushiftRight, BitVec.getLsbD_zero]
    by_cases hki : k + i < 64
    · have hbit := congrArg (BitVec.getLsbD · (k + i)) h
      simpa [-BitVec.reduceAllOnes, hki, hi] using hbit
    · exact BitVec.getLsbD_of_ge _ _ (by omega)
  · intro h
    rw [← setWidth_setWidth_of_ushiftRight p k h, Laws.setWidth_and_shiftLeft_allOnes]

theorem append_payload_inj {a b : BitVec 8} {p q : Payload} : a ++ p = b ++ q ↔ a = b ∧ p = q := by
  refine ⟨fun h => ⟨?_, ?_⟩, fun ⟨hop, hp⟩ => by rw [hop, hp]⟩
  · rw [← opField_append a p, h, opField_append]
  · rw [← payloadField_append a p, h, payloadField_append]

theorem spells_row_iff (a : Spelling) :
    a.row.spells w = true ↔ a.op = opField w ∧ payloadField w >>> a.width = 0#64 := by
  have hmasked : w &&& maskS a.width = opField w ++ (payloadField w &&& (BitVec.allOnes 64 <<< a.width)) := by
    conv_lhs => rw [eq_append_fields w]
    exact (Laws.commandWord_and_append _ _ _ _).trans (congrArg (· ++ _) BitVec.and_allOnes)
  rw [OpcodeRow.spells, beq_iff_eq, Spelling.row, hmasked, append_payload_inj, and_shiftLeft_allOnes_eq_zero_iff,
    eq_comm (a := opField w)]

theorem fixedSpellings_rows : (fixedSpellings.map Spelling.row).Perm fixedRows := by decide

theorem feed_row : (Spelling.feed W).row = ⟨"FEED", 0x010000000000000000#72, maskS W⟩ :=
  congrArg (OpcodeRow.mk "FEED" · (maskS W)) (by decide : 0x01#8 ++ 0#64 = 0x010000000000000000#72)

/-- The rows of the spellings are the rows of the table. -/
theorem mem_opcodeTableFor_iff {r : OpcodeRow} : r ∈ opcodeTableFor W ↔ ∃ a ∈ spellings W, a.row = r := by
  rw [opcodeTableFor, ← feed_row, List.mem_cons, ← fixedSpellings_rows.mem_iff, ← List.mem_cons, ← List.map_cons,
    List.mem_map, spellings]

/-- A word that spells a row decodes to the row's command. -/
theorem decodes_of_spells {r : OpcodeRow} (hr : r ∈ opcodeTableFor W) (hs : r.spells w = true) :
    ∃ i, decodeFor W w = .ok i ∧ r.mnemonic = i.mnemonic := by
  obtain ⟨a, ha, rfl⟩ := mem_opcodeTableFor_iff.mp hr
  obtain ⟨hop, hfits⟩ := (spells_row_iff a).mp hs
  exact ⟨_, (decodeFor_eq_ite ha hop).trans (if_pos hfits), ((sound_of_mem ha).mnemonic _).symm⟩

/-- Settles O5: what decodes spells its own row, and a row that is spelt decodes to its command. -/
theorem decoderAgreesWithOpcodeTable : Obligations.DecoderAgreesWithOpcodeTable := by
  intro W w
  cases hd : decodeFor W w with
  | ok i =>
    refine ⟨?_, fun r hr hs => ?_⟩
    · obtain ⟨a, ha, hop, hfits, -⟩ := exists_spelling_of_decodes hd
      exact ⟨a.row, mem_opcodeTableFor_iff.mpr ⟨a, ha, rfl⟩, (spells_row_iff a).mpr ⟨hop, hfits⟩⟩
    · obtain ⟨j, hj, hm⟩ := decodes_of_spells hr hs
      rwa [Except.ok.inj (hd.symm.trans hj)]
  | error e =>
    refine fun r hr => Bool.eq_false_of_not_eq_true fun hs => ?_
    obtain ⟨i, hi, -⟩ := decodes_of_spells hr hs
    simp [hi] at hd

/-- Settles O7: the nine words are evaluated. -/
theorem specWordsDecode : Obligations.SpecWordsDecode :=
  ⟨rfl, rfl, rfl, rfl, rfl, rfl, rfl, rfl, rfl⟩

end TableRows

/-! ### PROC with and without a frame (R79) -/

section Proc

variable {R : Type} {a b : Block R}

theorem proc_of_frame (E : Env R) (hv : b.cfgValid = true) (hq : b.n ≤ b.q.length) :
    b.proc E = (b.procEffect E).respond (.int 0) := by
  simp [Block.proc, (cfgErr_eq_false_iff b).mpr hv, (frameQueued_iff b).mpr hq]

theorem proc_without_frame (E : Env R) (hv : b.cfgValid = true) (hq : b.q.length < b.n) :
    b.proc E = (b.staleRes E).notReady := by
  simp [Block.proc, (cfgErr_eq_false_iff b).mpr hv, mt (frameQueued_iff b).mp (Nat.not_le.mpr hq)]

theorem procEffect_q (E : Env R) (b : Block R) : (b.procEffect E).q = b.q.drop b.n := fftEffect_q E _

theorem procEffect_cfg (E : Env R) (b : Block R) : (b.procEffect E).cfg = b.cfg := fftEffect_cfg E _

theorem procEffect_par (E : Env R) (b : Block R) : (b.procEffect E).par = b.par := fftEffect_par E _

/-- Validity is a matter of the straps and `LMAX` alone (R7). -/
theorem cfgValid_congr (hcfg : a.cfg = b.cfg) (hpar : a.par = b.par) : a.cfgValid = b.cfgValid := by
  rw [Bool.eq_iff_iff, cfgValid_iff, cfgValid_iff, Block.logN, Block.fs, hcfg, hpar]
  rfl

theorem n_congr (hcfg : a.cfg = b.cfg) : a.n = b.n := by
  rw [Block.n, Block.logN, hcfg]
  rfl

end Proc

/-! ### Runs, one part after another -/

section Runs

variable {M : Host.Core} {s t : M.State}

theorem run_succ_of_step (h : M.step s = .next t) (k : Nat) : M.run (k + 1) s = M.run k t := by
  rw [Host.Core.run, h]

/-- A run goes on where its first part ended. -/
theorem run_add {j : Nat} (h : M.run j s = .next t) (k : Nat) : M.run (j + k) s = M.run k t := by
  induction j generalizing s with
  | zero => rw [Nat.zero_add, Host.Outcome.next.inj h]
  | succ j ih =>
    rw [Host.Core.run] at h
    cases hstep : M.step s with
    | next u =>
      rw [hstep] at h
      rw [Nat.succ_add, run_succ_of_step hstep, ih h]
    | fault => simp [hstep] at h
    | refused => simp [hstep] at h

end Runs

/-! ### `DRAIN` (R50, R80) -/

section Drain

variable {s : State} {rest : List HostEvent}

/-- PROC's word, as the host presents it. -/
def procEvent : HostEvent := .command (encode .proc)

theorem step_proc (hin : s.input = procEvent :: rest) :
    step s = State.deliver (s.toBlock.proc s.env) { s with input := rest } := by
  rw [step_of_decodes hin (decodeOfEncode s.par.w .proc rfl), exec_eq_deliver, answer]

theorem step_proc_of_frame (hin : s.input = procEvent :: rest) (hv : s.cfgValid = true) (hq : s.n ≤ s.q.length) :
    step s = .next { s with toBlock := s.toBlock.procEffect s.env, input := rest,
                            output := s.output ++ [responseWord .ok 0#64] } := by
  rw [step_proc hin, proc_of_frame _ hv hq]
  rfl

theorem step_proc_without_frame (hin : s.input = procEvent :: rest) (hv : s.cfgValid = true)
    (hq : s.q.length < s.n) :
    step s = .next { s with toBlock := s.toBlock.staleRes s.env, input := rest,
                            output := s.output ++ [responseWord .notready 0#64] } := by
  rw [step_proc hin, proc_without_frame _ hv hq]
  rfl

/-- While `k` frames are queued, `k` PROCs answer `OK` and take one frame each (R80 (a), (b)). -/
theorem run_proc_frames {k : Nat} (hv : s.cfgValid = true) (hq : k * s.n ≤ s.q.length)
    (hin : s.input = List.replicate k procEvent ++ rest) :
    ∃ t : State, Host.Core.run Sys2Proof.core k s = .next t ∧ t.cfg = s.cfg ∧ t.par = s.par ∧ t.input = rest ∧
      t.q = s.q.drop (k * s.n) ∧ t.output = s.output ++ List.replicate k (responseWord .ok 0#64) := by
  induction k generalizing s with
  | zero => exact ⟨s, rfl, rfl, rfl, hin, by simp, by simp⟩
  | succ k ih =>
    rw [Nat.succ_mul] at hq
    obtain ⟨u, hstep, hcfg, hpar, huin, huq, huout⟩ : ∃ u : State, step s = .next u ∧ u.cfg = s.cfg ∧
        u.par = s.par ∧ u.input = List.replicate k procEvent ++ rest ∧ u.q = s.q.drop s.n ∧
        u.output = s.output ++ [responseWord .ok 0#64] :=
      ⟨_, step_proc_of_frame hin hv (by omega), procEffect_cfg _ _, procEffect_par _ _, rfl, procEffect_q _ _, rfl⟩
    have hn : u.n = s.n := n_congr hcfg
    obtain ⟨t, hrun, htcfg, htpar, htin, htq, htout⟩ :=
      ih ((cfgValid_congr hcfg hpar).trans hv) (by rw [hn, huq, List.length_drop]; omega) huin
    refine ⟨t, (run_succ_of_step hstep k).trans hrun, htcfg.trans hcfg, htpar.trans hpar, htin, ?_, ?_⟩
    · rw [htq, huq, hn, List.drop_drop, Nat.succ_mul, Nat.add_comm]
    · rw [htout, huout, List.replicate_succ, List.append_assoc, List.singleton_append]

/-- Settles O22: `len(Q) / N` PROCs find a frame, and the last one finds `len(Q) mod N` samples. -/
theorem drainEmptiesQueueByFrames : Obligations.DrainEmptiesQueueByFrames := by
  intro s hv hin
  have hframes : s.input = List.replicate (s.q.length / s.n) procEvent ++ [procEvent] := by
    rw [hin, drain, drainLength, List.map_replicate, List.replicate_succ']
    rfl
  obtain ⟨t, hrun, hcfg, hpar, htin, htq, htout⟩ := run_proc_frames hv (Nat.div_mul_le_self _ _) hframes
  have hlen : t.q.length = s.q.length % s.n := by
    rw [htq, List.length_drop, Nat.mul_comm, ← Nat.mod_eq_sub]
  have hshort : t.q.length < t.n := by
    rw [hlen, n_congr hcfg]
    exact Nat.mod_lt _ (Nat.two_pow_pos _)
  have hlast := step_proc_without_frame htin ((cfgValid_congr hcfg hpar).trans hv) hshort
  have hdrain := (run_add hrun 1).trans (run_succ_of_step hlast 0)
  exact ⟨_, hdrain, rfl, htq, hlen, congrArg (· ++ _) htout⟩

end Drain

end Sys2Proof.Machine
end

section
/-! SUPPORT. Proofs about the sample accumulator: XFRM, FEED as the host presents it, and the order in which PROC
analyses what was fed. -/

namespace Sys2Proof.Machine

/-! ### XFRM (R53) -/

section Xfrm

variable {R : Type} {b : Block R}

theorem xfrm_of_frame (hv : b.cfgValid = true) (hq : b.n ≤ b.q.length) : b.xfrm = b.xfrmEffect.respond (.int 0) := by
  simp [Block.xfrm, (cfgErr_eq_false_iff b).mpr hv, (frameQueued_iff b).mpr hq]

theorem xfrm_without_frame (hv : b.cfgValid = true) (hq : b.q.length < b.n) : b.xfrm = b.notReady := by
  simp [Block.xfrm, (cfgErr_eq_false_iff b).mpr hv, mt (frameQueued_iff b).mp (Nat.not_le.mpr hq)]

/-- Settles O25: the word, and `xfrm` with and without a queued frame. -/
theorem xfrmExtractsFrame : Obligations.XfrmExtractsFrame := by
  refine ⟨decodesZ_of_mem (by simp [plainCommands]), fun s hv => ⟨fun hq => ?_, fun hq => ?_⟩⟩
  · rw [exec_eq_deliver, answer, xfrm_of_frame hv hq]
    rfl
  · rw [exec_eq_deliver, answer, xfrm_without_frame hv hq]
    rfl

end Xfrm

/-! ### FEED as the host presents it (R52) -/

section FeedSteps

variable {s : State} {rest : List HostEvent}

/-- FEED's word, as the host presents it. -/
def feedEvent (sbits : Payload) : HostEvent := .command (encode (.feed sbits))

/-- What a sample means depends on `W` alone (R45). -/
theorem sampleOf_congr {a b : Block NumR} (h : a.par = b.par) (sbits : Payload) :
    a.sampleOf sbits = b.sampleOf sbits := by
  rw [Block.sampleOf, Block.sampleOf, Block.num, Block.num, h]

theorem step_feed {sbits : Payload} (hin : s.input = feedEvent sbits :: rest)
    (hfits : sampleFits s.par.w sbits = true) : step s = exec (.feed sbits) { s with input := rest } :=
  step_of_decodes hin (decodeOfEncode s.par.w (.feed sbits) hfits)

theorem step_feed_of_room {sbits : Payload} (hin : s.input = feedEvent sbits :: rest)
    (hfits : sampleFits s.par.w sbits = true) (hv : s.cfgValid = true) (hq : s.par.qcap ≠ some s.q.length) :
    step s = .next { s with q := s.q ++ [s.sampleOf sbits], input := rest,
                            output := s.output ++ [responseWord .ok 0#64] } := by
  obtain ⟨-, haccepted, -⟩ := feedAppendsOneSample.2 { s with input := rest } sbits hv
  rw [step_feed hin hfits, haccepted hq]
  rfl

theorem step_feed_of_full {sbits : Payload} (hin : s.input = feedEvent sbits :: rest)
    (hfits : sampleFits s.par.w sbits = true) (hv : s.cfgValid = true) (hq : s.par.qcap = some s.q.length) :
    step s = .next { s with err := { s.err with qovf := true }, input := rest,
                            output := s.output ++ [responseWord .qfull 0#64] } := by
  obtain ⟨-, -, hrefused⟩ := feedAppendsOneSample.2 { s with input := rest } sbits hv
  rw [step_feed hin hfits, hrefused hq]

/-- A burst of FEEDs for which the queue has room appends its samples in order (R50, R52). -/
theorem run_feeds {samples : List Payload} (hv : s.cfgValid = true)
    (hroom : ∀ c, s.par.qcap = some c → s.q.length + samples.length ≤ c)
    (hfits : ∀ sbits ∈ samples, sampleFits s.par.w sbits = true) (hin : s.input = samples.map feedEvent ++ rest) :
    ∃ t : State, Host.Core.run Sys2Proof.core samples.length s = .next t ∧ t.cfg = s.cfg ∧ t.par = s.par ∧
      t.input = rest ∧ t.q = s.q ++ samples.map (s.sampleOf ·) := by
  induction samples generalizing s with
  | nil => exact ⟨s, rfl, rfl, rfl, hin, (List.append_nil _).symm⟩
  | cons x xs ih =>
    obtain ⟨hx, hxs⟩ := List.forall_mem_cons.mp hfits
    have hnotFull : s.par.qcap ≠ some s.q.length := fun h => by simpa using hroom _ h
    obtain ⟨u, hstep, hucfg, hupar, huin, huq⟩ : ∃ u : State, step s = .next u ∧ u.cfg = s.cfg ∧ u.par = s.par ∧
        u.input = xs.map feedEvent ++ rest ∧ u.q = s.q ++ [s.sampleOf x] :=
      ⟨_, step_feed_of_room hin hx hv hnotFull, rfl, rfl, rfl, rfl⟩
    have hleft : u.q.length + xs.length = s.q.length + (x :: xs).length := by
      rw [huq, List.length_append, List.length_singleton, List.length_cons, Nat.add_assoc, Nat.add_comm 1]
    obtain ⟨t, hrun, htcfg, htpar, htin, htq⟩ := ih ((cfgValid_congr hucfg hupar).trans hv)
      (by rwa [hupar, hleft]) (by rwa [hupar]) huin
    refine ⟨t, (run_succ_of_step hstep _).trans hrun, htcfg.trans hucfg, htpar.trans hupar, htin, ?_⟩
    simp only [htq, huq, sampleOf_congr hupar, List.map_cons, List.append_assoc, List.singleton_append]

end FeedSteps

/-! ### The frame that a PROC analyses (R79) -/

section AnalysedFrame

/-- PROC leaves its windowed frame in `FB`: the commands after WIN do not write it. -/
theorem procEffect_fb {R : Type} (E : Env R) (b : Block R) :
    (b.procEffect E).fb = tabulate b.n (windowAt E.num b.n (b.xfrmEffect.fbAt E)) := fftEffect_fb E _

theorem procEffect_fb_getElem? {R : Type} (E : Env R) {b : Block R} {i : Nat} {x : R} (hi : i < b.n)
    (hx : b.q[i]? = some x) : (b.procEffect E).fb[i]? = some (E.num.mul x (E.num.hann i b.n)) := by
  have hframe : b.xfrmEffect.fb[i]? = some x := (List.getElem?_take_of_lt hi).trans hx
  rw [procEffect_fb, tabulate_getElem?, if_pos hi, windowAt, fbAt_of_getElem? E _ i x hframe]

variable {s t : State} {rest : List HostEvent}

/-- PROC with a frame, on a machine configured as `s` is: where the queue holds the samples of the feed order from
position `k` on, the frame analysed is `k .. k + N - 1`. -/
theorem step_proc_analyses (hcfg : t.cfg = s.cfg) (hpar : t.par = s.par) (hv : s.cfgValid = true)
    (hin : t.input = procEvent :: rest) (hframe : s.n ≤ t.q.length) :
    ∃ u : State, step t = .next u ∧ u.q = t.q.drop s.n ∧ u.output = t.output ++ [responseWord .ok 0#64] ∧
      ∀ (fed : List Payload) (k : Nat), t.q = (fed.drop k).map (s.sampleOf ·) →
        ∀ (i : Nat) (sbits : Payload), i < s.n → fed[k + i]? = some sbits →
          u.fb[i]? = some (s.num.mul (s.sampleOf sbits) (s.num.hann i s.n)) := by
  have hn : t.n = s.n := n_congr hcfg
  have hstep := step_proc_of_frame hin ((cfgValid_congr hcfg hpar).trans hv) (hn.trans_le hframe)
  refine ⟨_, hstep, (procEffect_q _ _).trans (congrArg t.q.drop hn), rfl, fun fed k hq i sbits hi hfed => ?_⟩
  have hx : t.q[i]? = some (s.sampleOf sbits) := by
    rw [hq, List.getElem?_map, List.getElem?_drop, hfed]
    rfl
  have hfb := procEffect_fb_getElem? t.env (hn ▸ hi) hx
  rw [hn] at hfb
  rw [hfb, env_congr hpar, env_num]

end AnalysedFrame

/-! ### The feed order (R80 (d)) -/

section FeedOrder

variable {s : State} {rest : List HostEvent}

/-- A move, as the host presents it. -/
def moveEvent (move : Option Payload) : HostEvent := .command (encode (feedOrProc move))

theorem framesAnalysed_cons (m : Option Payload) (ms : List (Option Payload)) (a : ResponseWord)
    (as : List ResponseWord) : framesAnalysed (m :: ms) (a :: as) = framesAnalysed [m] [a] + framesAnalysed ms as :=
  List.countP_append (l₁ := [(m, a)])

theorem framesAnalysed_feed (sbits : Payload) (a : ResponseWord) : framesAnalysed [some sbits] [a] = 0 := rfl

theorem framesAnalysed_proc_ok (d : Data) : framesAnalysed [none] [responseWord .ok d] = 1 := by
  simp [framesAnalysed, codeField_responseWord, Status.code]

theorem framesAnalysed_proc_notready (d : Data) : framesAnalysed [none] [responseWord .notready d] = 0 := by
  simp [framesAnalysed, codeField_responseWord, Status.code]

/-- The queue `q` after moves that fed `fed` and were answered by `answers`, none of them refused: what was fed goes to
the tail, and each PROC that answered `OK` takes `n` from the head. -/
def QueueAfter (n : Nat) (q fed : List NumR) (moves : List (Option Payload)) (answers : List ResponseWord)
    (q' : List NumR) : Prop :=
  (∀ a ∈ answers, codeField a ≠ 6#4) →
    framesAnalysed moves answers * n ≤ (q ++ fed).length ∧ q' = (q ++ fed).drop (framesAnalysed moves answers * n)

theorem QueueAfter.cons {n : Nat} {q q₁ q₂ fed₁ fed₂ : List NumR} {m : Option Payload} {ms : List (Option Payload)}
    {a : ResponseWord} {as : List ResponseWord} (hhead : QueueAfter n q fed₁ [m] [a] q₁)
    (htail : QueueAfter n q₁ fed₂ ms as q₂) : QueueAfter n q (fed₁ ++ fed₂) (m :: ms) (a :: as) q₂ := by
  intro hanswers
  obtain ⟨ha, has⟩ := List.forall_mem_cons.mp hanswers
  obtain ⟨hle₁, rfl⟩ := hhead (List.forall_mem_singleton.mpr ha)
  obtain ⟨hle₂, rfl⟩ := htail has
  rw [← List.drop_append_of_le_length hle₁, List.append_assoc] at hle₂ ⊢
  rw [framesAnalysed_cons, Nat.add_mul, List.drop_drop]
  rw [List.length_append] at hle₁
  rw [List.length_drop, List.length_append, List.length_append] at hle₂
  exact ⟨by simp only [List.length_append]; omega, rfl⟩

/-- One move: a FEED accepted or refused, or a PROC with or without a frame. -/
theorem step_move {m : Option Payload} (hv : s.cfgValid = true)
    (hfits : ∀ sbits ∈ m, sampleFits s.par.w sbits = true) (hin : s.input = moveEvent m :: rest) :
    ∃ (u : State) (a : ResponseWord), step s = .next u ∧ u.cfg = s.cfg ∧ u.par = s.par ∧ u.input = rest ∧
      u.output = s.output ++ [a] ∧ QueueAfter s.n s.q (m.toList.map (s.sampleOf ·)) [m] [a] u.q := by
  cases m with
  | some sbits =>
    by_cases hfull : s.par.qcap = some s.q.length
    · refine ⟨_, _, step_feed_of_full hin (hfits _ rfl) hv hfull, rfl, rfl, rfl, rfl, fun hanswers => ?_⟩
      exact absurd (codeField_responseWord .qfull _) (hanswers _ (List.mem_singleton_self _))
    · refine ⟨_, _, step_feed_of_room hin (hfits _ rfl) hv hfull, rfl, rfl, rfl, rfl, fun _ => ?_⟩
      simp [framesAnalysed_feed]
  | none =>
    by_cases hframe : s.n ≤ s.q.length
    · refine ⟨_, _, step_proc_of_frame hin hv hframe, procEffect_cfg _ _, procEffect_par _ _, rfl, rfl, fun _ => ?_⟩
      simpa [framesAnalysed_proc_ok, procEffect_q] using hframe
    · refine ⟨_, _, step_proc_without_frame hin hv (not_le.mp hframe), rfl, rfl, rfl, rfl, fun _ => ?_⟩
      simp [framesAnalysed_proc_notready]

theorem reduceOption_cons (m : Option Payload) (ms : List (Option Payload)) :
    (m :: ms).reduceOption = m.toList ++ ms.reduceOption := by
  cases m <;> rfl

/-- Every interleaving of FEED and PROC, from any queue. -/
theorem run_moves {moves : List (Option Payload)} (hv : s.cfgValid = true)
    (hfits : ∀ sbits ∈ moves.reduceOption, sampleFits s.par.w sbits = true)
    (hin : s.input = moves.map moveEvent ++ rest) :
    ∃ (t : State) (answers : List ResponseWord), Host.Core.run Sys2Proof.core moves.length s = .next t ∧
      t.cfg = s.cfg ∧ t.par = s.par ∧ t.input = rest ∧ t.output = s.output ++ answers ∧
      answers.length = moves.length ∧
      QueueAfter s.n s.q (moves.reduceOption.map (s.sampleOf ·)) moves answers t.q := by
  induction moves generalizing s with
  | nil =>
    refine ⟨s, [], rfl, rfl, rfl, hin, (List.append_nil _).symm, rfl, fun _ => ?_⟩
    simp [framesAnalysed]
  | cons m ms ih =>
    rw [reduceOption_cons] at hfits ⊢
    obtain ⟨hm, hms⟩ := List.forall_mem_append.mp hfits
    obtain ⟨u, a, hstep, hucfg, hupar, huin, huout, huq⟩ :=
      step_move hv (fun sbits h => hm sbits (Option.mem_toList.mpr h)) hin
    obtain ⟨t, answers, hrun, htcfg, htpar, htin, htout, hlen, htq⟩ :=
      ih ((cfgValid_congr hucfg hupar).trans hv) (hupar ▸ hms) huin
    simp only [n_congr hucfg, sampleOf_congr hupar] at htq
    refine ⟨t, a :: answers, (run_succ_of_step hstep _).trans hrun, htcfg.trans hucfg, htpar.trans hupar, htin, ?_,
      congrArg Nat.succ hlen, ?_⟩
    · rw [htout, huout, List.append_assoc, List.singleton_append]
    · rw [List.map_append]
      exact huq.cons htq

/-- A burst of FEEDs, the PROCs that answer `OK`, and the one after them. -/
theorem frames_follow_burst {samples : List Payload} {r : Nat} (hv : s.cfgValid = true)
    (hroom : ∀ c, s.par.qcap = some c → samples.length ≤ c) (hempty : s.q = [])
    (hfits : ∀ sbits ∈ samples, sampleFits s.par.w sbits = true) (hframes : (r + 1) * s.n ≤ samples.length)
    (hin : s.input = samples.map feedEvent ++ (List.replicate r procEvent ++ procEvent :: rest)) :
    ∃ t : State, Host.Core.run Sys2Proof.core (samples.length + (r + 1)) s = .next t ∧
      t.q = (samples.drop ((r + 1) * s.n)).map (s.sampleOf ·) ∧
      ∀ (i : Nat) (sbits : Payload), i < s.n → samples[r * s.n + i]? = some sbits →
        t.fb[i]? = some (s.num.mul (s.sampleOf sbits) (s.num.hann i s.n)) := by
  rw [Nat.succ_mul] at hframes ⊢
  obtain ⟨f, hfeeds, hfcfg, hfpar, hfin, hfq⟩ := run_feeds hv (by simpa [hempty] using hroom) hfits hin
  rw [hempty, List.nil_append] at hfq
  have hfn : f.n = s.n := n_congr hfcfg
  obtain ⟨p, hprocs, hpcfg, hppar, hpin, hpq, -⟩ := run_proc_frames (k := r)
    ((cfgValid_congr hfcfg hfpar).trans hv) (by rw [hfn, hfq, List.length_map]; omega) hfin
  rw [hfq, hfn, ← List.map_drop] at hpq
  obtain ⟨t, hlast, htq, -, htfb⟩ := step_proc_analyses (hpcfg.trans hfcfg) (hppar.trans hfpar) hv hpin
    (by rw [hpq, List.length_map, List.length_drop]; omega)
  refine ⟨t, ?_, ?_, htfb _ _ hpq⟩
  · rw [run_add hfeeds, run_add hprocs]
    exact run_succ_of_step hlast 0
  · rw [htq, hpq, ← List.map_drop, List.drop_drop]

/-- Settles O23: the burst, and by induction on the moves every interleaving. -/
theorem framesFollowFeedOrder : Obligations.FramesFollowFeedOrder := by
  refine ⟨fun s samples r hv hroom hempty hfits hframes hin => ?_, fun s moves hv hempty hfits hin => ?_⟩
  · refine frames_follow_burst (rest := []) hv hroom hempty hfits hframes ?_
    rw [hin, List.replicate_succ', feedv, List.map_append, List.map_map, List.map_append, List.map_replicate]
    rfl
  · rw [List.map_append, List.map_map] at hin
    obtain ⟨t, answers, hrun, hcfg, hpar, htin, hout, hlen, hqueue⟩ := run_moves hv hfits hin
    have hsamples (hanswers : ∀ a ∈ answers, codeField a ≠ 6#4) :
        t.q = (moves.reduceOption.drop (framesAnalysed moves answers * s.n)).map (s.sampleOf ·) := by
      obtain ⟨-, hq⟩ := hqueue hanswers
      rw [hq, hempty, List.nil_append, List.map_drop]
    by_cases hframe : s.n ≤ t.q.length
    · obtain ⟨u, hlast, -, huout, hufb⟩ := step_proc_analyses hcfg hpar hv htin hframe
      exact ⟨t, u, answers, hrun, hlast, hout, hlen, fun hanswers => ⟨hsamples hanswers,
        fun hshort => absurd hframe (Nat.not_le.mpr hshort), fun _ => ⟨huout, hufb _ _ (hsamples hanswers)⟩⟩⟩
    · have hshort : t.q.length < t.n := (n_congr hcfg).symm ▸ not_le.mp hframe
      have hlast := step_proc_without_frame htin ((cfgValid_congr hcfg hpar).trans hv) hshort
      exact ⟨t, _, answers, hrun, hlast, hout, hlen, fun hanswers => ⟨hsamples hanswers, fun _ => rfl,
        fun h => absurd h hframe⟩⟩

end FeedOrder

end Sys2Proof.Machine
end

section
/-! SUPPORT. Proofs about the window: the exact Hann coefficients, and WIN. -/

namespace Sys2Proof.Machine

/-! ### The exact Hann window (R55), for every length `n`; a frame's length `N = 2^L` is even -/

section ExactWindow

variable {n : Nat}

theorem exact_hann_eq (i n : Nat) :
    exact.hann i n = (1 - Real.cos (2 * Real.pi * i / ((n : ℝ) - 1))) / 2 := one_div_mul_eq_div 2 _

theorem exact_hann_nonneg (i n : Nat) : 0 ≤ exact.hann i n := by
  rw [exact_hann_eq]
  linarith [Real.cos_le_one (2 * Real.pi * i / ((n : ℝ) - 1))]

/-- The cosine is `-1` at the odd multiples of `π` only: `2i` would be an odd multiple of the odd `n - 1`. -/
theorem cos_hann_angle_ne_neg_one (heven : Even n) (i : Nat) :
    Real.cos (2 * Real.pi * i / ((n : ℝ) - 1)) ≠ -1 := by
  intro hcos
  obtain ⟨k, hk⟩ := Real.cos_eq_neg_one_iff.mp hcos
  have hpos : (n : ℝ) - 1 ≠ 0 := sub_ne_zero.mpr (by exact_mod_cast fun h : n = 1 => Nat.not_even_one (h ▸ heven))
  have hreal : (2 * k + 1 : ℝ) * (n - 1) = 2 * i := by
    refine mul_left_cancel₀ Real.pi_ne_zero ?_
    rw [eq_div_iff hpos] at hk
    linear_combination hk
  have hint : (2 * k + 1) * ((n : ℤ) - 1) = 2 * (i : ℤ) := by exact_mod_cast hreal
  have hodd : Odd ((2 * k + 1) * ((n : ℤ) - 1)) :=
    (odd_two_mul_add_one k).mul ((heven.natCast (α := ℤ)).sub_odd odd_one)
  exact Int.not_even_iff_odd.mpr hodd (hint ▸ even_two_mul _)

theorem exact_hann_lt_one (heven : Even n) (i : Nat) : exact.hann i n < 1 := by
  have hlt := (Real.neg_one_le_cos _).lt_of_ne (cos_hann_angle_ne_neg_one heven i).symm
  rw [exact_hann_eq]
  linarith

/-- The cosines of a full period: the real part of the sum of the `m`-th roots of unity. -/
theorem sum_cos_full_period {m : Nat} (hm : 2 ≤ m) :
    ∑ i ∈ Finset.range m, Real.cos (2 * Real.pi * i / m) = 0 := by
  have hroots := (Complex.isPrimitiveRoot_exp m (by omega)).geom_sum_eq_zero hm
  have hre (i : Nat) : (Complex.exp (2 * Real.pi * Complex.I / m) ^ i).re = Real.cos (2 * Real.pi * i / m) := by
    rw [← Complex.exp_nat_mul, ← Complex.exp_ofReal_mul_I_re]
    congr 2
    push_cast
    ring
  simpa only [Complex.re_sum, hre, Complex.zero_re] using congrArg Complex.re hroots

/-- The last coefficient is 0, and the `n - 1` before it cover a full period. -/
theorem sum_exact_hann (hn : 3 ≤ n) : ∑ i ∈ Finset.range n, exact.hann i n = ((n : ℝ) - 1) / 2 := by
  obtain ⟨m, rfl⟩ : ∃ m, n = m + 1 := ⟨n - 1, by omega⟩
  have hlast : exact.hann m (m + 1) = 0 := (exact_nlEdge (m + 1) (by omega)).2
  have hperiod := sum_cos_full_period (m := m) (by omega)
  rw [Finset.sum_range_succ, hlast, add_zero]
  simp only [exact_hann_eq, Nat.cast_add_one, add_sub_cancel_right, ← Finset.sum_div, Finset.sum_sub_distrib, hperiod,
    sub_zero, Finset.sum_const, Finset.card_range, nsmul_one]

/-- Settles O56: the ends and the symmetry are named laws of the exact reals, the bounds and the sum are above. -/
theorem exactWindowProperties : Obligations.ExactWindowProperties := by
  intro l hl
  have htwo : 2 ≤ 2 ^ l := Nat.le_self_pow (by omega) 2
  have heven : Even (2 ^ l) := Nat.even_pow.mpr ⟨even_two, by omega⟩
  obtain ⟨hfirst, hlast⟩ := exact_nlEdge (2 ^ l) htwo
  refine ⟨hfirst, hlast, fun i => exact_nlSym _ i htwo,
    fun i _ => ⟨exact_hann_nonneg i _, exact_hann_lt_one heven i⟩, fun hl2 => ?_, fun _ i hi => ?_⟩
  · have hfour : 2 ^ 2 ≤ 2 ^ l := Nat.pow_le_pow_right two_pos hl2
    rw [sum_exact_hann (by omega), Nat.cast_pow, Nat.cast_two]
  · obtain ⟨hzero, hone⟩ := exact_nlEdge 2 le_rfl
    interval_cases i
    · exact hzero
    · exact hone

end ExactWindow

/-! ### WIN (R57) -/

section Win

variable {R : Type} {b : Block R}

theorem win_of_frame (E : Env R) (hv : b.cfgValid = true) (hph : b.ph = .frame) :
    b.win E = (b.winEffect E).respond (.int 0) := by
  simp [Block.win, (cfgErr_eq_false_iff b).mpr hv, hph]

theorem win_outside_frame (E : Env R) (hv : b.cfgValid = true) (hph : b.ph ≠ .frame) :
    b.win E = b.raise .seqerr := by
  simp [Block.win, (cfgErr_eq_false_iff b).mpr hv, hph]

theorem winEffect_fb_length (E : Env R) (b : Block R) : (b.winEffect E).fb.length = b.n := tabulate_length _ _

theorem winEffect_fb_getElem? (E : Env R) {i : Nat} {x : R} (hi : i < b.n) (hx : b.fb[i]? = some x) :
    (b.winEffect E).fb[i]? = some (E.num.mul x (E.num.hann i b.n)) := by
  rw [Block.winEffect, enter_fb, writeFb_fb, tabulate_getElem?, if_pos hi, windowAt, fbAt_of_getElem? E b i x hx]

/-- Settles O26: the word, and `win` in `FRAME` and in the other phases. -/
theorem winMultipliesByWindow : Obligations.WinMultipliesByWindow := by
  refine ⟨decodesZ_of_mem (by simp [plainCommands]), fun s hv => ⟨fun hph hlen => ?_, fun hph => ?_⟩⟩
  · refine ⟨(s.winEffect s.env).fb, ?_, winEffect_fb_length _ _, fun i x hx => ?_⟩
    · rw [exec_eq_deliver, answer, win_of_frame _ hv hph]
      rfl
    · obtain ⟨hi, -⟩ := List.getElem?_eq_some_iff.mp hx
      exact winEffect_fb_getElem? _ (hlen ▸ hi) hx
  · rw [exec_eq_deliver, answer, win_outside_frame _ hv hph]
    rfl

end Win

end Sys2Proof.Machine
end

section
/-! SUPPORT. Proofs about the transform: the bit reversal, LDC, BREV, STG and FFT, the stage form against the recursive
reference, and what the reference computes over the reals. -/

namespace Sys2Proof.Machine

/-! ### The bit reversal (R66) -/

section Reversal

variable {l i j k : Nat}

theorem testBit_rev (i : Nat) (hk : k < l) : (rev l i).testBit k = i.testBit (l - 1 - k) := by
  induction l generalizing i with
  | zero => omega
  | succ l ih =>
    rw [rev, Nat.mul_comm, Nat.testBit_two_pow_mul_add _ (rev_lt l _)]
    split
    · next hlow => rw [ih _ hlow, Nat.testBit_div_two, show l - 1 - k + 1 = l + 1 - 1 - k by omega]
    · next hhigh =>
      obtain rfl : k = l := by omega
      simp [Nat.testBit_zero]

/-- An index below `2^l` is the reversal of another when its bits mirror that one's. -/
theorem eq_rev_of_mirrored (hj : j < 2 ^ l) (hbits : ∀ k, k < l → j.testBit k = i.testBit (l - 1 - k)) :
    j = rev l i := by
  refine Nat.eq_of_testBit_eq fun k => ?_
  by_cases hk : k < l
  · rw [hbits k hk, testBit_rev i hk]
  · have hpow : 2 ^ l ≤ 2 ^ k := Nat.pow_le_pow_right Nat.two_pos (Nat.le_of_not_lt hk)
    rw [Nat.testBit_lt_two_pow (hj.trans_le hpow), Nat.testBit_lt_two_pow ((rev_lt l i).trans_le hpow)]

/-- Mirroring the bits twice gives them back. -/
theorem rev_rev (hi : i < 2 ^ l) : rev l (rev l i) = i :=
  (eq_rev_of_mirrored hi fun k hk => by
    rw [testBit_rev i (by omega), show l - 1 - (l - 1 - k) = k by omega]).symm

/-- Settles O29: the range, the involution and the bits, each by its lemma. -/
theorem revReversesBits : Obligations.RevReversesBits :=
  fun l i hi => ⟨rev_lt l i, rev_rev hi, fun _ => testBit_rev i⟩

theorem rev_succ_two_mul (l c : Nat) : rev (l + 1) (2 * c) = rev l c := by
  simp [rev]

theorem rev_succ_two_mul_add_one (l c : Nat) : rev (l + 1) (2 * c + 1) = 2 ^ l + rev l c := by
  simp [rev, Nat.add_mod, show (2 * c + 1) / 2 = c by omega]

end Reversal

/-! ### LDC and BREV (R65, R66) -/

section LoadAndReverse

variable {R : Type} {b : Block R}

theorem ldc_of_frame (E : Env R) (hv : b.cfgValid = true) (hph : b.ph = .frame ∨ b.ph = .windowed) :
    b.ldc E = (b.ldcEffect E).respond (.int 0) := by
  obtain hph | hph := hph <;> simp [Block.ldc, (cfgErr_eq_false_iff b).mpr hv, hph]

theorem ldc_without_frame (E : Env R) (hv : b.cfgValid = true) (hph : ¬ (b.ph = .frame ∨ b.ph = .windowed)) :
    b.ldc E = b.raise .seqerr := by
  simp [Block.ldc, (cfgErr_eq_false_iff b).mpr hv, not_or.mp hph]

/-- With all `N` entries of `FB` listed, LDC pairs each with `zero`. -/
theorem ldcEffect_xb (E : Env R) (hlen : b.fb.length = b.n) :
    (b.ldcEffect E).xb = b.fb.map fun x => ⟨x, E.num.zero⟩ := by
  conv_rhs => rw [eq_tabulate_getD b.fb (E.unwritten .fb), hlen, tabulate, List.map_map]
  rfl

/-- Settles O27: the word, and `ldc` in the two phases with a frame and in the others. -/
theorem ldcLoadsFrame : Obligations.LdcLoadsFrame := by
  refine ⟨decodesZ_of_mem (by simp [plainCommands]), fun s hv => ⟨fun hph hlen => ?_, fun hph => ?_⟩⟩
  · rw [exec_eq_deliver, answer, ldc_of_frame _ hv hph, ← env_num, ← ldcEffect_xb _ hlen]
    rfl
  · rw [exec_eq_deliver, answer, ldc_without_frame _ hv hph]
    rfl

theorem brev_of_loaded (E : Env R) (hv : b.cfgValid = true) (hph : b.ph = .loaded) :
    b.brev E = (b.brevEffect E).respond (.int 0) := by
  simp [Block.brev, (cfgErr_eq_false_iff b).mpr hv, hph]

theorem brev_outside_loaded (E : Env R) (hv : b.cfgValid = true) (hph : b.ph ≠ .loaded) :
    b.brev E = b.raise .seqerr := by
  simp [Block.brev, (cfgErr_eq_false_iff b).mpr hv, hph]

theorem brevEffect_xb_getElem? (E : Env R) {i : Nat} {z : Cplx R} (hi : i < b.n) (hz : b.xb[rev b.logN i]? = some z) :
    (b.brevEffect E).xb[i]? = some z := by
  rw [Block.brevEffect, enter_xb, writeXb_xb, tabulate_getElem?, if_pos hi, xbAt_of_getElem? E b _ z hz]

/-- Settles O28: the word, and `brev` in `LOADED`, where a mirrored index is the reversal, and in the other phases. -/
theorem brevPermutesByBitReversal : Obligations.BrevPermutesByBitReversal := by
  refine ⟨decodesZ_of_mem (by simp [plainCommands]), fun s hv => ⟨fun hph hlen => ?_, fun hph => ?_⟩⟩
  · refine ⟨(s.brevEffect s.env).xb, ?_, tabulate_length _ _, fun i j hi hj hbits => ?_⟩
    · rw [exec_eq_deliver, answer, brev_of_loaded _ hv hph]
      rfl
    · obtain rfl := eq_rev_of_mirrored hj hbits
      have hlisted := List.getElem?_eq_getElem (hlen ▸ hj)
      rw [hlisted, brevEffect_xb_getElem? _ hi hlisted]
  · rw [exec_eq_deliver, answer, brev_outside_loaded _ hv hph]
    rfl

end LoadAndReverse

/-! ### STG (R67) -/

section Stage

variable {R : Type} {b : Block R} {stage : Nat}

theorem stg_of_next (E : Env R) (hv : b.cfgValid = true) (hlow : 1 ≤ stage) (hhigh : stage ≤ b.logN)
    (hph : b.ph = .stages) (hsc : b.sc.toNat + 1 = stage) : b.stg E stage = (b.stgEffect E stage).respond (.int 0) := by
  simp [Block.stg, (cfgErr_eq_false_iff b).mpr hv, (stageLegal_iff stage b).mpr ⟨hlow, hhigh⟩, hph, hsc]

theorem stg_of_illegal (E : Env R) (hv : b.cfgValid = true) (hbad : stage < 1 ∨ b.logN < stage) :
    b.stg E stage = b.raise .operr := by
  have hillegal : b.stageLegal stage = false := Bool.eq_false_iff.mpr fun h => by
    rw [stageLegal_iff] at h
    omega
  simp [Block.stg, (cfgErr_eq_false_iff b).mpr hv, hillegal]

theorem stg_out_of_order (E : Env R) (hv : b.cfgValid = true) (hlow : 1 ≤ stage) (hhigh : stage ≤ b.logN)
    (horder : b.ph ≠ .stages ∨ b.sc.toNat + 1 ≠ stage) : b.stg E stage = b.raise .seqerr := by
  have hseq : (!(decide (b.ph = .stages) && decide (b.sc.toNat + 1 = stage))) = true := by
    simpa [Classical.or_iff_not_imp_left] using horder
  rw [Block.stg, (cfgErr_eq_false_iff b).mpr hv, (stageLegal_iff stage b).mpr ⟨hlow, hhigh⟩, hseq]
  rfl

/-- In `STAGES` a stage writes `XB` and the stage count alone. -/
theorem stgEffect_eq (E : Env R) (hph : b.ph = .stages) :
    b.stgEffect E stage = { b with xb := (b.stgEffect E stage).xb, sc := BitVec.ofNat 5 stage } := by
  calc b.stgEffect E stage
    _ = { b with xb := (b.stgEffect E stage).xb, ph := .stages, sc := BitVec.ofNat 5 stage } := rfl
    _ = _ := by rw [← hph]

/-- A stage leaves the two outputs of the butterfly of every pair. -/
theorem stgEffect_xb_pair (E : Env R) {c j : Nat} {u v : Cplx R} (hlow : 1 ≤ stage)
    (hc : (c + 1) * 2 ^ stage ≤ b.n) (hj : j < 2 ^ stage / 2) (hu : b.xb[c * 2 ^ stage + j]? = some u)
    (hv : b.xb[c * 2 ^ stage + j + 2 ^ stage / 2]? = some v) :
    let w := b.trom E (twiddleAddr b.logN stage j)
    (b.stgEffect E stage).xb[c * 2 ^ stage + j]? = some (butterfly E.num u v w).1 ∧
    (b.stgEffect E stage).xb[c * 2 ^ stage + j + 2 ^ stage / 2]? = some (butterfly E.num u v w).2 := by
  have hhalf := two_pow_half_add_half hlow
  have hblock : c * 2 ^ stage + 2 ^ stage ≤ b.n := Nat.succ_mul c _ ▸ hc
  have hpair := butterfly_eq_stageAt E.num (c := c) (l := b.logN) hlow hj (b.xbAt E)
  rw [xbAt_of_getElem? E b _ u hu, xbAt_of_getElem? E b _ v hv] at hpair
  intro w
  rw [Block.stgEffect, enter_xb, writeXb_xb, tabulate_getElem?, tabulate_getElem?, if_pos (by omega),
    if_pos (by omega), show butterfly E.num u v w = _ from hpair]
  exact ⟨rfl, rfl⟩

/-- Settles O30: the word, and `stg` in its turn, with an illegal stage, and out of order. -/
theorem stgAppliesEveryButterfly : Obligations.StgAppliesEveryButterfly := by
  refine ⟨decodeFor_stg, fun s stage hv => ⟨fun hlow hhigh hph hsc hlen => ?_, fun hbad => ?_,
    fun hlow hhigh horder => ?_⟩⟩
  · refine ⟨(s.stgEffect s.env stage).xb, ?_, tabulate_length _ _, fun c j u v hc hj hu hw =>
      stgEffect_xb_pair s.env hlow hc hj hu hw⟩
    rw [exec_eq_deliver, answer, stg_of_next _ hv hlow hhigh hph (by omega), stgEffect_eq _ hph]
    rfl
  · rw [exec_eq_deliver, answer, stg_of_illegal _ hv hbad]
    rfl
  · rw [exec_eq_deliver, answer, stg_out_of_order _ hv hlow hhigh (horder.imp_right fun hsc => by omega)]
    rfl

end Stage

/-! ### FFT and its inner commands (R68) -/

section Fft

variable {R : Type} {b : Block R}

theorem fft_of_loaded (E : Env R) (hv : b.cfgValid = true) (hph : b.ph = .loaded) :
    b.fft E = (b.fftEffect E).respond (.int 0) := by
  simp [Block.fft, (cfgErr_eq_false_iff b).mpr hv, hph]

theorem fft_outside_loaded (E : Env R) (hv : b.cfgValid = true) (hph : b.ph ≠ .loaded) :
    b.fft E = b.raise .seqerr := by
  simp [Block.fft, (cfgErr_eq_false_iff b).mpr hv, hph]

/-- FFT ends in `STAGES` with `SC = L`. -/
theorem fftEffect_eq_with_xb (E : Env R) (b : Block R) :
    b.fftEffect E = { b with xb := (b.fftEffect E).xb, ph := .stages, sc := b.cfg.l } := by
  rw [← ofNat_logN]
  exact fftEffect_eq E b

/-- Each stage finds the phase and the stage count that its predecessor left. -/
theorem stg_stagesEffect (E : Env R) (hv : b.cfgValid = true) {k : Nat} (hk : k < b.logN) :
    (b.stagesEffect E k).stg E (k + 1) = (b.stagesEffect E (k + 1)).respond (.int 0) := by
  have hsc : (b.stagesEffect E k).sc.toNat = k := by
    rw [stagesEffect_sc, BitVec.toNat_ofNat, Nat.mod_eq_of_lt (hk.trans (logN_lt b))]
  refine stg_of_next E ?_ (Nat.le_add_left 1 k) ?_ (stagesEffect_ph E b k) (by rw [hsc])
  · rw [cfgValid_congr (stagesEffect_cfg E b k) (stagesEffect_par E b k), hv]
  · rw [stagesEffect_logN]
    exact hk

theorem execAll_append {is js : List Instr} {s t : State} (h : execAll is s = .next t) :
    execAll (is ++ js) s = execAll js t := by
  induction is generalizing s with
  | nil =>
    obtain rfl := Host.Outcome.next.inj h
    rfl
  | cons i is ih =>
    rw [execAll, exec_eq_deliver, deliver_eq] at h
    rw [List.cons_append, execAll, exec_eq_deliver, deliver_eq]
    exact ih h

/-- BREV and the first `k` stages, run by `exec`, answer `OK` each and do the work of FFT so far. -/
theorem execAll_stages {s : State} (hv : s.cfgValid = true) (hph : s.ph = .loaded) {k : Nat} (hk : k ≤ s.logN) :
    execAll (.brev :: (List.range k).map fun k => .stg (k + 1)) s = .next { s with
      toBlock := s.stagesEffect s.env k,
      output := s.output ++ List.replicate (k + 1) (responseWord .ok 0#64) } := by
  induction k with
  | zero =>
    rw [List.range_zero, List.map_nil, execAll, exec_eq_deliver, answer, brev_of_loaded _ hv hph]
    rfl
  | succ k ih =>
    rw [List.range_succ, List.map_append, ← List.cons_append, execAll_append (ih (by omega)), List.map_singleton,
      execAll, exec_eq_deliver, answer, stagesEffect_env, stg_stagesEffect _ hv hk, List.replicate_succ' (n := k + 1),
      ← List.append_assoc]
    rfl

/-- Settles O32: FFT's block is that of the inner commands at `k = L`. -/
theorem fftRunsAllStages : Obligations.FftRunsAllStages := by
  refine ⟨decodesZ_of_mem (by simp [plainCommands]), fun s hv => ⟨fun hph => ?_, fun hph => ?_⟩⟩
  · refine ⟨(s.fftEffect s.env).xb, _, ?_, execAll_stages hv hph le_rfl, fftEffect_eq_with_xb _ _, rfl⟩
    rw [exec_eq_deliver, answer, fft_of_loaded _ hv hph, fftEffect_eq_with_xb]
    rfl
  · rw [exec_eq_deliver, answer, fft_outside_loaded _ hv hph]
    rfl

end Fft

/-! ### The stage form computes the reference transform (R61, R69) -/

section ReferenceForm

variable {R : Type} (K : Arith R)

/-- The combine loop of R61 is a butterfly for each `i` in the first half. -/
theorem butterfly_eq_refTransform {l i : Nat} (hi : i < 2 ^ l) (x : Nat → Cplx R) :
    butterfly K (refTransform K l (fun t => x (2 * t)) i) (refTransform K l (fun t => x (2 * t + 1)) i)
      (twiddle K i (2 ^ (l + 1))) = (refTransform K (l + 1) x i, refTransform K (l + 1) x (i + 2 ^ l)) := by
  simp [butterfly, refTransform, hi]

/-- BREV and the stages read no entry outside the buffer (R33). -/
theorem stagesUpTo_congr {l s : Nat} (hs : s ≤ l) {x y : Nat → Cplx R} (h : ∀ i, i < 2 ^ l → x i = y i)
    {i : Nat} (hi : i < 2 ^ l) : stagesUpTo K l x s i = stagesUpTo K l y s i := by
  induction s generalizing i with
  | zero => exact h _ (rev_lt l i)
  | succ s ih => exact stageAt_congr K hs (fun i hi => ih (by omega) hi) hi

variable {K}

/-- The twiddle that stage `s` reads from the ROM is that of the transform of size `2^s` (R60). -/
theorem twiddle_twiddleAddr (hK : K.NLTwRed) {l s j : Nat} (hs : 1 ≤ s) (hsl : s ≤ l) (hj : j < 2 ^ s / 2) :
    twiddle K (twiddleAddr l s j) (2 ^ l) = twiddle K j (2 ^ s) := by
  obtain ⟨hre, him⟩ := hK (2 ^ s) j (l - s) (Nat.le_self_pow (by omega) 2) hj
  rw [← Nat.pow_add, Nat.add_sub_cancel' hsl] at hre him
  rw [twiddleAddr, Nat.shiftLeft_eq, twiddle, hre, him, twiddle]

/-- `sub(c, s)` of R69, with `d = l - s`: every `2^d`-th entry, from the reversal of the block index on. -/
def subSequence (x : Nat → Cplx R) (d c t : Nat) : Cplx R := x (rev d c + t * 2 ^ d)

theorem subSequence_zero (x : Nat → Cplx R) (c : Nat) : subSequence x 0 c = x := by
  funext t
  simp [subSequence, rev]

theorem subSequence_even (x : Nat → Cplx R) (d c : Nat) :
    (fun t => subSequence x d c (2 * t)) = subSequence x (d + 1) (2 * c) := by
  funext t
  rw [subSequence, subSequence, rev_succ_two_mul]
  ring_nf

theorem subSequence_odd (x : Nat → Cplx R) (d c : Nat) :
    (fun t => subSequence x d c (2 * t + 1)) = subSequence x (d + 1) (2 * c + 1) := by
  funext t
  rw [subSequence, subSequence, rev_succ_two_mul_add_one]
  ring_nf

/-- Block `c` of level `s + 1` is the blocks `2c` and `2c + 1` of level `s`. Where these hold the transforms of its even
and of its odd entries, the butterfly with offset `j` computes the outputs `j` and `j + 2^s` of its own transform. -/
theorem stage_pair_eq_refTransform (hK : K.NLTwRed) {l s d : Nat} (hsl : s + 1 ≤ l) (x : Nat → Cplx R)
    (hblocks : ∀ c r, r < 2 ^ s → stagesUpTo K l x s (c * 2 ^ s + r) = refTransform K s (subSequence x (d + 1) c) r)
    (c : Nat) {j : Nat} (hj : j < 2 ^ s) :
    (stagesUpTo K l x (s + 1) (c * 2 ^ (s + 1) + j), stagesUpTo K l x (s + 1) (c * 2 ^ (s + 1) + j + 2 ^ s)) =
      (refTransform K (s + 1) (subSequence x d c) j, refTransform K (s + 1) (subSequence x d c) (j + 2 ^ s)) := by
  have hhalf : 2 ^ (s + 1) / 2 = 2 ^ s := by rw [Nat.pow_succ, Nat.mul_div_cancel _ Nat.two_pos]
  have hlow : c * 2 ^ (s + 1) + j = 2 * c * 2 ^ s + j := by ring
  have hhigh : c * 2 ^ (s + 1) + j + 2 ^ s = (2 * c + 1) * 2 ^ s + j := by ring
  have hstage := butterfly_eq_stageAt K (c := c) (l := l) (Nat.le_add_left 1 s) (hhalf ▸ hj) (stagesUpTo K l x s)
  rw [twiddle_twiddleAddr hK (Nat.le_add_left 1 s) hsl (hhalf ▸ hj), hhalf] at hstage
  rw [← butterfly_eq_refTransform K hj, subSequence_even, subSequence_odd, ← hblocks _ _ hj, ← hblocks _ _ hj, ← hlow,
    ← hhigh, hstage]
  rfl

/-- R69: after BREV and the stages `1 .. s`, block `c` is the transform of its sub-sequence. -/
theorem stagesUpTo_eq_refTransform (hK : K.NLTwRed) {l s d : Nat} (hl : d + s = l) (x : Nat → Cplx R) (c : Nat)
    {r : Nat} (hr : r < 2 ^ s) :
    stagesUpTo K l x s (c * 2 ^ s + r) = refTransform K s (subSequence x d c) r := by
  induction s generalizing d c r with
  | zero =>
    obtain rfl : r = 0 := Nat.lt_one_iff.mp hr
    obtain rfl : d = l := hl
    simp [stagesUpTo, refTransform, subSequence]
  | succ s ih =>
    have hpair := fun j => stage_pair_eq_refTransform hK (j := j) (by omega) x (fun c r => ih (d := d + 1) (by omega) c) c
    obtain hlow | hhigh := Nat.lt_or_ge r (2 ^ s)
    · exact (Prod.mk.inj (hpair r hlow)).1
    · obtain ⟨j, rfl⟩ := Nat.exists_eq_add_of_le' hhigh
      rw [← Nat.add_assoc]
      exact (Prod.mk.inj (hpair j (by rw [Nat.pow_succ] at hr; omega))).2

end ReferenceForm

/-! ### What BREV, the stages, FFT and PROC leave in XB (R68, R69, R79) -/

section TransformedBlock

variable {R : Type} {E : Env R} {b : Block R}

theorem foldl_stg_eq_stagesEffect (E : Env R) (hv : b.cfgValid = true) (hph : b.ph = .loaded) {s : Nat}
    (hs : s ≤ b.logN) :
    (List.range s).foldl (fun b k => (b.stg E (k + 1)).block) (b.brev E).block = b.stagesEffect E s := by
  induction s with
  | zero =>
    rw [brev_of_loaded E hv hph]
    rfl
  | succ s ih =>
    rw [List.range_succ, List.foldl_append, ih (by omega), List.foldl_cons, stg_stagesEffect E hv hs]
    rfl

/-- The entries of `XB` are those of the sequence `x`. -/
theorem xbAt_of_listed (hlen : b.xb.length = b.n) {x : Nat → Cplx R} (hx : ∀ i z, b.xb[i]? = some z → x i = z)
    {i : Nat} (hi : i < b.n) : b.xbAt E i = x i := by
  have hlisted := List.getElem?_eq_getElem (hlen ▸ hi)
  rw [xbAt_of_getElem? E b i _ hlisted, hx i _ hlisted]

/-- R69 for the machine's block, where `x` lists the entries that `XB` reads as. -/
theorem stagesEffect_xb_getElem? (hK : E.num.NLTwRed) {x : Nat → Cplx R} (hx : ∀ i, i < b.n → b.xbAt E i = x i)
    {s c r : Nat} (hs : s ≤ b.logN) (hc : c < 2 ^ (b.logN - s)) (hr : r < 2 ^ s) :
    (b.stagesEffect E s).xb[c * 2 ^ s + r]? = some (refTransform E.num s (subSequence x (b.logN - s) c) r) := by
  have hi : c * 2 ^ s + r < b.n := calc
    c * 2 ^ s + r < (c + 1) * 2 ^ s := by rw [Nat.succ_mul]; omega
    _ ≤ 2 ^ (b.logN - s) * 2 ^ s := Nat.mul_le_mul_right _ hc
    _ = b.n := by rw [← Nat.pow_add, Nat.sub_add_cancel hs, Block.n]
  have hlisted := List.getElem?_eq_getElem ((stagesEffect_xb_length E b s).symm ▸ hi)
  rw [hlisted, ← xbAt_of_getElem? E _ _ _ hlisted, stagesEffect_xbAt E b s hs _ hi, stagesUpTo_congr E.num hs hx hi,
    stagesUpTo_eq_refTransform hK (Nat.sub_add_cancel hs) x c hr]

/-- Settles O33: the inner commands leave `stagesEffect`, whose blocks R69 describes. -/
theorem stagesComputeReferenceTransform : Obligations.StagesComputeReferenceTransform := by
  intro R E b hK hv hph hlen x hx s c r hs hc hr
  rw [foldl_stg_eq_stagesEffect E hv hph hs]
  exact stagesEffect_xb_getElem? hK (fun i => xbAt_of_listed hlen hx) hs hc hr

/-- After stage `L` there is one block, which is the whole of `XB`. -/
theorem fftEffect_xb (hK : E.num.NLTwRed) {x : Nat → Cplx R} (hx : ∀ i, i < b.n → b.xbAt E i = x i) :
    (b.fftEffect E).xb = tabulate b.n (refTransform E.num b.logN x) := by
  ext1 i
  rw [tabulate_getElem?]
  split
  · next hi =>
    have hblock := stagesEffect_xb_getElem? hK hx le_rfl (c := 0) (Nat.two_pow_pos _) hi
    rwa [Nat.sub_self, subSequence_zero, Nat.zero_mul, Nat.zero_add] at hblock
  · next hi => exact List.getElem?_eq_none (by rw [Block.fftEffect, stagesEffect_xb_length]; omega)

/-- Settles O34: FFT's work on `XB`, with what it leaves alone. -/
theorem fftLeavesReferenceTransform : Obligations.FftLeavesReferenceTransform := by
  intro R E b hK hv hph hlen x hx
  rw [fft_of_loaded E hv hph]
  refine ⟨rfl, ?_⟩
  rw [respond_block, fftEffect_eq_with_xb, fftEffect_xb hK fun i => xbAt_of_listed hlen hx]

/-- The block that PROC transforms: the windowed frame, loaded. -/
def Block.loadedFrame (E : Env R) (b : Block R) : Block R := (b.xfrmEffect.winEffect E).ldcEffect E

theorem loadedFrame_n (E : Env R) (b : Block R) : (b.loadedFrame E).n = b.n := rfl

theorem xfrmEffect_fbAt (hq : b.n ≤ b.q.length) {x : Nat → R} (hx : ∀ i v, b.q[i]? = some v → x i = v)
    {i : Nat} (hi : i < b.n) : b.xfrmEffect.fbAt E i = x i := by
  have hsample := List.getElem?_eq_getElem (hi.trans_le hq)
  rw [fbAt_of_getElem? E _ i _ ((List.getElem?_take_of_lt hi).trans hsample), hx i _ hsample]

theorem loadedFrame_xbAt (hq : b.n ≤ b.q.length) {x : Nat → R} (hx : ∀ i v, b.q[i]? = some v → x i = v)
    {i : Nat} (hi : i < b.n) : (b.loadedFrame E).xbAt E i = ⟨E.num.mul (x i) (E.num.hann i b.n), E.num.zero⟩ := by
  have hloaded : (b.loadedFrame E).xbAt E i = ⟨(b.xfrmEffect.winEffect E).fbAt E i, E.num.zero⟩ :=
    xbAt_writeXb E _ (b.xfrmEffect.winEffect E) i hi
  have hwindowed : (b.xfrmEffect.winEffect E).fbAt E i = windowAt E.num b.n (b.xfrmEffect.fbAt E) i :=
    fbAt_writeFb E _ b.xfrmEffect i hi
  rw [hloaded, hwindowed, windowAt, xfrmEffect_fbAt hq hx hi]

/-- MAG takes the moduli of the first half of the transform. -/
theorem procEffect_mb (E : Env R) (b : Block R) :
    (b.procEffect E).mb = tabulate (b.n / 2) (magnitudeAt E.num (((b.loadedFrame E).fftEffect E).xbAt E)) := by
  rw [← loadedFrame_n E b, ← stagesEffect_n E _ (b.loadedFrame E).logN]
  rfl

/-- Settles O42: the six unit commands, of which FFT leaves the transform of the loaded frame. -/
theorem procLeavesReferenceSpectrum : Obligations.ProcLeavesReferenceSpectrum := by
  intro R E b hK hv hq x hx
  have hxb := fftEffect_xb hK fun i (hi : i < (b.loadedFrame E).n) => loadedFrame_xbAt hq hx hi
  rw [proc_of_frame E hv hq, respond_block]
  refine ⟨rfl, ?_, hxb, ?_, procEffect_q E b, rfl, ?_, rfl, fftEffect_err E _⟩
  · rw [procEffect_fb]
    refine tabulate_congr fun i hi => ?_
    rw [windowAt, xfrmEffect_fbAt hq hx hi]
  · rw [procEffect_mb]
    refine tabulate_congr fun i hi => ?_
    rw [magnitudeAt, Block.xbAt, hxb, tabulate_getD _ _ _ _ (by rw [loadedFrame_n]; omega)]
    rfl
  · exact congrArg Block.sc (fftEffect_eq_with_xb E (b.loadedFrame E))

end TransformedBlock

/-! ### Over the reals the reference is the discrete Fourier transform (R62) -/

section ExactTransform

@[simp] theorem toComplex_cadd (a b : Cplx ℝ) : toComplex (cadd exact a b) = toComplex a + toComplex b := rfl
@[simp] theorem toComplex_csub (a b : Cplx ℝ) : toComplex (csub exact a b) = toComplex a - toComplex b := rfl
@[simp] theorem toComplex_cmul (a b : Cplx ℝ) : toComplex (cmul exact a b) = toComplex a * toComplex b := rfl

theorem toComplex_real (a : ℝ) : toComplex ⟨a, 0⟩ = a := rfl

theorem toComplex_inj {a b : Cplx ℝ} : toComplex a = toComplex b ↔ a = b := by
  cases a
  cases b
  simp [toComplex, Complex.ext_iff]

/-- `e^(-2πi/n)`, a primitive `n`-th root of unity. -/
noncomputable def unitRoot (n : ℕ) : ℂ := (Complex.exp (2 * Real.pi * Complex.I / n))⁻¹

variable {n k : ℕ}

theorem isPrimitiveRoot_unitRoot (hn : n ≠ 0) : IsPrimitiveRoot (unitRoot n) n :=
  (Complex.isPrimitiveRoot_exp n hn).inv

theorem unitRoot_pow (n k : ℕ) : unitRoot n ^ k = Complex.exp (-(2 * Real.pi * Complex.I * k / n)) := by
  rw [unitRoot, ← Complex.exp_neg, ← Complex.exp_nat_mul]
  congr 1
  ring

theorem unitRoot_two_mul_pow_two_mul (n k : ℕ) : unitRoot (2 * n) ^ (2 * k) = unitRoot n ^ k := by
  rw [unitRoot_pow, unitRoot_pow]
  push_cast
  rw [mul_left_comm _ 2, mul_div_mul_left _ _ two_ne_zero]

theorem unitRoot_two_mul_pow_self (hn : n ≠ 0) : unitRoot (2 * n) ^ n = -1 := by
  have hn' : (n : ℂ) ≠ 0 := Nat.cast_ne_zero.mpr hn
  have hangle : (2 * Real.pi * Complex.I * n / (2 * n : ℕ) : ℂ) = Real.pi * Complex.I := by
    push_cast
    field_simp
  rw [unitRoot_pow, hangle, Complex.exp_neg, Complex.exp_pi_mul_I, inv_neg_one]

theorem toComplex_twiddle (k n : ℕ) : toComplex (twiddle exact k n) = unitRoot n ^ k := by
  rw [unitRoot_pow]
  have hangle : (-(2 * Real.pi * Complex.I * k / n) : ℂ) = ((-(2 * Real.pi * k / n) : ℝ) : ℂ) * Complex.I := by
    push_cast
    ring
  rw [hangle]
  apply Complex.ext
  · rw [Complex.exp_ofReal_mul_I_re, Real.cos_neg]; rfl
  · rw [Complex.exp_ofReal_mul_I_im, Real.sin_neg]; rfl

theorem dft_eq_sum_unitRoot (n : ℕ) (x : ℕ → Cplx ℝ) (k : ℕ) :
    dft n x k = ∑ t ∈ Finset.range n, toComplex (x t) * unitRoot n ^ (k * t) := by
  refine Finset.sum_congr rfl fun t _ => ?_
  rw [unitRoot_pow, Nat.cast_mul, ← mul_assoc]

theorem sum_range_two_mul {M : Type} [AddCommMonoid M] (n : ℕ) (f : ℕ → M) :
    ∑ t ∈ Finset.range (2 * n), f t = ∑ t ∈ Finset.range n, (f (2 * t) + f (2 * t + 1)) := by
  induction n with
  | zero => rfl
  | succ n ih => rw [Nat.mul_succ, Finset.sum_range_succ, Finset.sum_range_succ, ih, Finset.sum_range_succ, add_assoc]

/-- Even and odd entries apart. -/
theorem dft_two_mul (n : ℕ) (x : ℕ → Cplx ℝ) (k : ℕ) :
    dft (2 * n) x k = dft n (fun t => x (2 * t)) k + unitRoot (2 * n) ^ k * dft n (fun t => x (2 * t + 1)) k := by
  simp only [dft_eq_sum_unitRoot, sum_range_two_mul, Finset.sum_add_distrib, Finset.mul_sum]
  congr 1 <;> refine Finset.sum_congr rfl fun t _ => ?_
  · rw [Nat.mul_left_comm, unitRoot_two_mul_pow_two_mul]
  · rw [Nat.mul_succ, Nat.mul_left_comm, pow_add, unitRoot_two_mul_pow_two_mul]
    ring

theorem dft_add_self (hn : n ≠ 0) (x : ℕ → Cplx ℝ) (k : ℕ) : dft n x (k + n) = dft n x k := by
  simp only [dft_eq_sum_unitRoot, Nat.add_mul, pow_add, pow_mul _ n, (isPrimitiveRoot_unitRoot hn).pow_eq_one, one_pow,
    mul_one]

/-- R62 (b), by the two halves of the combine loop. -/
theorem toComplex_refTransform {l k : ℕ} (x : ℕ → Cplx ℝ) (hk : k < 2 ^ l) :
    toComplex (refTransform exact l x k) = dft (2 ^ l) x k := by
  induction l generalizing x k with
  | zero =>
    obtain rfl : k = 0 := Nat.lt_one_iff.mp hk
    simp [refTransform, dft]
  | succ l ih =>
    have hn : 2 ^ l ≠ 0 := by positivity
    have hcombine := fun i (hi : i < 2 ^ l) => Prod.mk.inj (butterfly_eq_refTransform exact hi x)
    obtain hlow | hhigh := Nat.lt_or_ge k (2 ^ l)
    · rw [← (hcombine k hlow).1, toComplex_cadd, toComplex_cmul, toComplex_twiddle, ih _ hlow, ih _ hlow, pow_succ',
        dft_two_mul]
    · obtain ⟨i, rfl⟩ := Nat.exists_eq_add_of_le' hhigh
      have hi : i < 2 ^ l := by rw [pow_succ] at hk; omega
      rw [← (hcombine i hi).2, toComplex_csub, toComplex_cmul, toComplex_twiddle, ih _ hi, ih _ hi, pow_succ',
        dft_two_mul, dft_add_self hn, dft_add_self hn, pow_add, unitRoot_two_mul_pow_self hn]
      ring

/-- Settles O57: the reference's two halves are the two halves of the sum. -/
theorem exactTransformIsDft : Obligations.ExactTransformIsDft := fun _ _ x hk => toComplex_refTransform x hk

theorem dft_const (x : ℕ → Cplx ℝ) (c : ℝ) (hx : ∀ t, t < n → x t = ⟨c, 0⟩) (k : ℕ) :
    dft n x k = c * ∑ t ∈ Finset.range n, (unitRoot n ^ k) ^ t := by
  rw [dft_eq_sum_unitRoot, Finset.mul_sum]
  refine Finset.sum_congr rfl fun t ht => ?_
  rw [hx t (Finset.mem_range.mp ht), toComplex_real, pow_mul]

/-- The powers of a root other than 1 sum to 0. -/
theorem geom_sum_unitRoot_pow (hk : 1 ≤ k) (hkn : k < n) : ∑ t ∈ Finset.range n, (unitRoot n ^ k) ^ t = 0 := by
  have hroot := isPrimitiveRoot_unitRoot (n := n) (by omega)
  rw [geom_sum_eq (hroot.pow_ne_one_of_pos_of_lt (by omega) hkn), pow_right_comm, hroot.pow_eq_one, one_pow, sub_self,
    zero_div]

open ComplexConjugate in
/-- R62 (e): the roots at `n - k` are the conjugates of those at `k`. -/
theorem dft_sub_of_real (x : ℕ → Cplx ℝ) (hx : ∀ t, t < n → (x t).im = 0) (hn : n ≠ 0) (hk : k ≤ n) :
    dft n x (n - k) = conj (dft n x k) := by
  have hroot := isPrimitiveRoot_unitRoot hn
  have hconj (t : ℕ) : unitRoot n ^ ((n - k) * t) = conj (unitRoot n ^ (k * t)) := by
    rw [← Complex.inv_eq_conj (by rw [norm_pow, hroot.norm'_eq_one hn, one_pow])]
    refine eq_inv_of_mul_eq_one_left ?_
    rw [← pow_add, ← Nat.add_mul, Nat.sub_add_cancel hk, pow_mul, hroot.pow_eq_one, one_pow]
  rw [dft_eq_sum_unitRoot, dft_eq_sum_unitRoot, map_sum]
  refine Finset.sum_congr rfl fun t ht => ?_
  have hreal : conj (toComplex (x t)) = toComplex (x t) :=
    Complex.conj_eq_iff_im.mpr (hx t (Finset.mem_range.mp ht))
  rw [map_mul, hreal, hconj]

/-- Settles O58: each part is that of the discrete Fourier transform. -/
theorem exactTransformOfConstantAndReal : Obligations.ExactTransformOfConstantAndReal := by
  intro l x
  refine ⟨fun c hx => ⟨?_, fun k hk hkn => ?_⟩, fun hx k hk hkn => ?_⟩
  · rw [← toComplex_inj, toComplex_refTransform x (by positivity), dft_const x c hx, toComplex_real]
    simp [mul_comm]
  · rw [← toComplex_inj, toComplex_refTransform x hkn, dft_const x c hx, geom_sum_unitRoot_pow hk hkn, mul_zero]
    rfl
  · have hsym := dft_sub_of_real x hx (by positivity) hkn.le
    rw [← toComplex_refTransform x hkn, ← toComplex_refTransform x (by omega)] at hsym
    exact ⟨congrArg Complex.re hsym, congrArg Complex.im hsym⟩

end ExactTransform

/-! ### The all-zero frame (R62 (c), R81 (a)) -/

section AllZero

variable {R : Type} {K : Arith R} {finite : R → Prop} {l : Nat}

/-- A butterfly of zeros with a twiddle of the ROM gives zeros. -/
theorem butterfly_zero (hK : K.NLZero finite) {k n : Nat} (hn : 2 ≤ n) (hk : k < n / 2) :
    butterfly K ⟨K.zero, K.zero⟩ ⟨K.zero, K.zero⟩ (twiddle K k n) =
      (⟨K.zero, K.zero⟩, ⟨K.zero, K.zero⟩) := by
  obtain ⟨hmul, hadd, hsub, -, -⟩ := hK
  obtain ⟨hre, -⟩ := hmul (K.twre k n) (.inl ⟨n, k, hn, .inr ⟨hk, .inl rfl⟩⟩)
  obtain ⟨him, -⟩ := hmul (K.twim k n) (.inl ⟨n, k, hn, .inr ⟨hk, .inr rfl⟩⟩)
  simp [butterfly, cadd, csub, cmul, twiddle, hre, him, hadd, hsub]

theorem stageAt_zero (hK : K.NLZero finite) {s : Nat} (hs : 1 ≤ s) (hsl : s ≤ l) :
    stageAt K l s (fun _ => ⟨K.zero, K.zero⟩) = fun _ => ⟨K.zero, K.zero⟩ := by
  funext i
  have hN : 2 ≤ 2 ^ l := Nat.le_self_pow (by omega) 2
  have hhalf := two_pow_half_add_half hs
  have hoffset := Nat.mod_lt i (Nat.two_pow_pos s)
  simp only [stageAt]
  split
  · next hlow => rw [butterfly_zero hK hN (twiddleAddr_lt hs hsl hlow)]
  · rw [butterfly_zero hK hN (twiddleAddr_lt hs hsl (by omega))]

theorem stagesUpTo_zero (hK : K.NLZero finite) {s : Nat} (hsl : s ≤ l) :
    stagesUpTo K l (fun _ => ⟨K.zero, K.zero⟩) s = fun _ => ⟨K.zero, K.zero⟩ := by
  induction s with
  | zero => rfl
  | succ s ih => rw [stagesUpTo, ih (by omega), stageAt_zero hK (Nat.le_add_left 1 s) hsl]

theorem windowAt_zero (hK : K.NLZero finite) {n i : Nat} (hn : 2 ≤ n) (hi : i < n) :
    windowAt K n (fun _ => K.zero) i = K.zero := by
  obtain ⟨hmul, -⟩ := hK
  exact (hmul _ (.inl ⟨n, i, hn, .inl ⟨hi, rfl⟩⟩)).2

theorem spectrum_zero (hK : K.NLZero finite) (hl : 1 ≤ l) {i : Nat} (hi : i < 2 ^ l) :
    stagesUpTo K l (loadedAt K l fun _ => K.zero) l i = ⟨K.zero, K.zero⟩ := by
  have hloaded : ∀ i, i < 2 ^ l → loadedAt K l (fun _ => K.zero) i = ⟨K.zero, K.zero⟩ := fun i hi => by
    rw [loadedAt, windowAt_zero hK (Nat.le_self_pow (by omega) 2) hi]
  rw [stagesUpTo_congr K le_rfl hloaded hi, stagesUpTo_zero hK le_rfl]

theorem spectrumAt_zero (hK : K.NLZero finite) (hl : 1 ≤ l) {i : Nat} (hi : i < 2 ^ l) :
    spectrumAt K l (fun _ => K.zero) i = K.zero := by
  rw [spectrumAt, magnitudeAt, spectrum_zero hK hl hi]
  obtain ⟨-, -, -, hmag, -⟩ := hK
  exact hmag

theorem bandSum_zero (hK : K.NLZero finite) {mb : Nat → R} {first count : Nat}
    (hmb : ∀ k, k < count → mb (first + k) = K.zero) : bandSum K mb first count = K.zero := by
  obtain ⟨-, hadd, -⟩ := hK
  rw [bandSum]
  induction count with
  | zero => rfl
  | succ count ih =>
    rw [List.range_succ, List.foldl_append, ih fun k hk => hmb k (by omega), List.foldl_cons, hmb count (by omega),
      hadd]
    rfl

/-- A band of zeros is zero, with bins or without. -/
theorem bandE_zero (hK : K.NLZero finite) (fs : Nat) {mb : Nat → R} (hmb : ∀ i, i < 2 ^ l / 2 → mb i = K.zero)
    (lo hi : Int) : bandE K fs l mb lo hi = K.zero := by
  have hcast : ((2 ^ l : Nat) : Int) = 2 ^ l := by norm_cast
  have hrange := band_bins_in_range fs l lo hi
  simp only [bandE]
  split
  · rfl
  · rw [bandSum_zero hK fun k hk => hmb _ (by omega)]
    obtain ⟨-, -, -, -, hdivn⟩ := hK
    exact hdivn _ (by omega)

/-- Settles O59, unit by unit. -/
theorem allZeroFrameGivesZeros : Obligations.AllZeroFrameGivesZeros := by
  intro R K finite hK fs l lo hi hl
  have hspectrum : ∀ i, i < 2 ^ l / 2 → spectrumAt K l (fun _ => K.zero) i = K.zero := fun i hi =>
    spectrumAt_zero hK hl (by omega)
  exact ⟨fun _ => windowAt_zero hK (Nat.le_self_pow (by omega) 2), fun _ => spectrum_zero hK hl, hspectrum,
    bandE_zero hK fs hspectrum lo hi⟩

end AllZero

end Sys2Proof.Machine
end

section
/-! SUPPORT. Proofs about the magnitude unit: MAG (R70, R71). -/

namespace Sys2Proof.Machine

/-! ### MAG (R71) -/

section Magnitude

variable {R : Type} {b : Block R}

/-- The transform is complete: `SC = L` as registers and as numbers. -/
theorem sc_eq_iff_toNat (b : Block R) : b.sc = b.cfg.l ↔ b.sc.toNat = b.logN := BitVec.toNat_inj.symm

theorem magnitudes_of_complete (E : Env R) (hv : b.cfgValid = true) (hph : b.ph = .stages) (hsc : b.sc = b.cfg.l) :
    b.magnitudes E = (b.magEffect E).respond (.int 0) := by
  simp [Block.magnitudes, (cfgErr_eq_false_iff b).mpr hv, hph, (sc_eq_iff_toNat b).mp hsc]

theorem magnitudes_of_incomplete (E : Env R) (hv : b.cfgValid = true) (h : b.ph ≠ .stages ∨ b.sc ≠ b.cfg.l) :
    b.magnitudes E = b.raise .seqerr := by
  obtain hph | hsc := h
  · simp [Block.magnitudes, (cfgErr_eq_false_iff b).mpr hv, hph]
  · simp [Block.magnitudes, (cfgErr_eq_false_iff b).mpr hv, mt (sc_eq_iff_toNat b).mpr hsc]

theorem take_tabulate {α : Type} (f : Nat → α) {m n : Nat} (h : m ≤ n) : (tabulate n f).take m = tabulate m f := by
  rw [tabulate, ← List.map_take, List.take_range, min_eq_left h, tabulate]

/-- With all `N` entries of `XB` listed, MAG takes the modulus of each in the first half. -/
theorem magEffect_mb (E : Env R) (hlen : b.xb.length = b.n) :
    (b.magEffect E).mb = (b.xb.take (b.n / 2)).map fun z => E.num.mag z.re z.im := by
  have hxb : b.xb = tabulate b.n (b.xbAt E) := hlen ▸ eq_tabulate_getD b.xb _
  conv_rhs => rw [hxb, take_tabulate _ (Nat.div_le_self _ _), tabulate, List.map_map]
  rfl

/-- Settles O35: the word, and `magnitudes` on a complete transform and on any other state. -/
theorem magComputesModuli : Obligations.MagComputesModuli := by
  refine ⟨decodesZ_of_mem (by simp [plainCommands]), fun s hv => ⟨fun hph hsc hlen => ?_, fun hincomplete => ?_⟩⟩
  · rw [exec_eq_deliver, answer, magnitudes_of_complete _ hv hph hsc, ← env_num, ← magEffect_mb _ hlen]
    rfl
  · rw [exec_eq_deliver, answer, magnitudes_of_incomplete _ hv hincomplete]
    rfl

end Magnitude

end Sys2Proof.Machine
end

section
/-! SUPPORT. Proofs about the band energy: the bin mapper, the accumulator, BAND and BANDS (R72 to R77). -/

namespace Sys2Proof.Machine

/-! ### The bin mapper (R72) -/

section BinMapper

variable {fs l : Nat}

/-- The floor of `f · N / FS`, from below. -/
theorem le_binIndex_iff (hfs : 1 ≤ fs) {f b : Int} : b ≤ binIndex fs l f ↔ b * fs ≤ f * 2 ^ l := by
  rw [binIndex, Int.fdiv_eq_ediv_of_nonneg _ (by omega), Int.le_ediv_iff_mul_le (by omega)]

theorem binIndex_lt_iff (hfs : 1 ≤ fs) {f b : Int} : binIndex fs l f < b ↔ f * 2 ^ l < b * fs := by
  rw [← not_le, le_binIndex_iff hfs, not_le]

theorem binIndex_eq_iff (hfs : 1 ≤ fs) {f b : Int} :
    binIndex fs l f = b ↔ b * fs ≤ f * 2 ^ l ∧ f * 2 ^ l < (b + 1) * fs := by
  rw [← le_binIndex_iff hfs, ← binIndex_lt_iff hfs]
  omega

theorem binIndex_mono (hfs : 1 ≤ fs) {f g : Int} (h : f ≤ g) : binIndex fs l f ≤ binIndex fs l g :=
  (le_binIndex_iff hfs).mpr <|
    ((le_binIndex_iff hfs).mp le_rfl).trans (mul_le_mul_of_nonneg_right h (by positivity))

/-- The last bin of the spectrum lies below half the sample rate. -/
theorem binIndex_le_last_iff (hfs : 1 ≤ fs) (hl : 1 ≤ l) {f : Int} :
    binIndex fs l f ≤ 2 ^ l / 2 - 1 ↔ 2 * f < fs := by
  obtain ⟨k, rfl⟩ := Nat.exists_eq_add_of_le' hl
  have hhalf : (2 ^ (k + 1) / 2 : Int) = 2 ^ k := by rw [pow_succ, Int.mul_ediv_cancel _ two_ne_zero]
  rw [hhalf, Int.le_sub_one_iff, binIndex_lt_iff hfs, pow_succ', mul_comm _ (fs : Int), ← mul_assoc, mul_comm f,
    mul_lt_mul_iff_left₀ (by positivity)]

/-- Settles O51: each part from the defining inequalities of the floor. -/
theorem binIndexProperties : Obligations.BinIndexProperties := by
  refine fun fs l hfs => ⟨fun f g => binIndex_mono hfs, ?_, ?_, fun f b => binIndex_eq_iff hfs,
    fun hl f => binIndex_le_last_iff hfs hl⟩
  · rw [binIndex_eq_iff hfs]
    omega
  · rw [binIndex_eq_iff hfs, add_one_mul, mul_comm]
    omega

end BinMapper

/-! ### The accumulator's loop and the bins of the band (R73) -/

section BandBins

variable {R : Type} (K : Arith R) (fs l : Nat) (mb : Nat → R) (lo hi : Int)

theorem mem_bandBins {fs l : Nat} {lo hi : Int} {b : Nat} :
    b ∈ bandBins fs (2 ^ l) lo hi ↔ b < 2 ^ l / 2 ∧ binIndex fs l lo ≤ b ∧ b ≤ binIndex fs l hi := by
  simp [bandBins, binIndex]

/-- The two clamps of the loop cut the band to the spectrum. -/
theorem bandBins_eq_range' : bandBins fs (2 ^ l) lo hi =
    List.range' (binStart fs l lo).toNat (binEnd fs l hi - binStart fs l lo + 1).toNat := by
  refine List.Pairwise.eq_of_mem_iff (r := (· < ·)) (List.pairwise_lt_range.filter _) List.pairwise_lt_range'
    fun b => ?_
  have hcast : ((2 ^ l : Nat) : Int) = 2 ^ l := by norm_cast
  rw [mem_bandBins, List.mem_range'_1, binStart, binEnd]
  omega

theorem bandSum_eq_foldl (first count : Nat) :
    bandSum K mb first count = (List.range' first count).foldl (fun acc b => K.add acc (mb b)) K.zero := by
  rw [List.range'_eq_map_range, List.foldl_map, bandSum]

variable {fs l lo hi}

theorem bandE_of_empty (h : binEnd fs l hi < binStart fs l lo) : bandE K fs l mb lo hi = K.zero := if_pos h

theorem bandE_of_nonempty (h : binStart fs l lo ≤ binEnd fs l hi) :
    bandE K fs l mb lo hi =
      K.divn (bandSum K mb (binStart fs l lo).toNat (binEnd fs l hi - binStart fs l lo + 1).toNat)
        (binEnd fs l hi - binStart fs l lo + 1).toNat := if_neg (not_lt.mpr h)

theorem bandMean_of_empty (h : bandBins fs (2 ^ l) lo hi = []) : bandMean K fs (2 ^ l) mb lo hi = K.zero := by
  rw [bandMean, h]
  rfl

theorem bandMean_of_nonempty (h : bandBins fs (2 ^ l) lo hi ≠ []) : bandMean K fs (2 ^ l) mb lo hi =
    K.divn ((bandBins fs (2 ^ l) lo hi).foldl (fun acc b => K.add acc (mb b)) K.zero)
      (bandBins fs (2 ^ l) lo hi).length := if_neg (by simpa using h)

variable (fs l lo hi)

theorem bandE_eq_bandMean : bandE K fs l mb lo hi = bandMean K fs (2 ^ l) mb lo hi := by
  have hbins := bandBins_eq_range' fs l lo hi
  obtain hempty | hnonempty := lt_or_ge (binEnd fs l hi) (binStart fs l lo)
  · rw [bandE_of_empty K mb hempty, bandMean_of_empty K mb]
    rw [hbins, List.range'_eq_nil_iff]
    omega
  · rw [bandE_of_nonempty K mb hnonempty, bandMean_of_nonempty K mb, bandSum_eq_foldl, hbins, List.length_range']
    rw [hbins, Ne, List.range'_eq_nil_iff]
    omega

/-- Settles O36: the loop's indices are the band's bins. -/
theorem bandEnergyIsMeanOfBins : Obligations.BandEnergyIsMeanOfBins :=
  fun _ K fs l mb lo hi _ => bandE_eq_bandMean K fs l mb lo hi

/-- Settles O52: each kind of empty band crosses the clamped limits; one bin is a loop of one turn. -/
theorem bandEnergyCornerCases : Obligations.BandEnergyCornerCases := by
  refine fun R K fs l mb lo hi _ _ => ⟨fun hempty => bandE_of_empty K mb ?_, fun b hb hlo hhi => ?_⟩
  · rw [binStart, binEnd]
    omega
  · have hcast : ((2 ^ l : Nat) : Int) = 2 ^ l := by norm_cast
    have hstart : binStart fs l lo = b := by rw [binStart, hlo]; omega
    have hend : binEnd fs l hi = b := by rw [binEnd, hhi]; omega
    rw [bandE_of_nonempty K mb (hstart.trans hend.symm).le, hstart, hend, sub_self]
    rfl

end BandBins

/-! ### The exact mean (R74) -/

section ExactBand

variable {fs l : Nat} {lo hi : Int}

theorem exact_bandE_eq_sum_div (mb : Nat → ℝ) (h : bandBins fs (2 ^ l) lo hi ≠ []) : bandE exact fs l mb lo hi =
    ((bandBins fs (2 ^ l) lo hi).map mb).sum / (bandBins fs (2 ^ l) lo hi).length := by
  rw [bandE_eq_bandMean, bandMean_of_nonempty exact mb h, List.sum_eq_foldl, List.foldl_map]
  rfl

/-- Settles O53: the sum of `k` bins lies between `k` times the bounds. -/
theorem exactBandEnergyIsBetween : Obligations.ExactBandEnergyIsBetween := by
  intro fs l mb lo hi small large _ hne hbounds
  have hpos : (0 : ℝ) < (bandBins fs (2 ^ l) lo hi).length := Nat.cast_pos.mpr (List.length_pos_iff.mpr hne)
  have hlow := List.card_nsmul_le_sum _ small (List.forall_mem_map.mpr fun b hb => (hbounds b hb).1)
  have hhigh := List.sum_le_card_nsmul _ large (List.forall_mem_map.mpr fun b hb => (hbounds b hb).2)
  rw [List.length_map, nsmul_eq_mul, mul_comm] at hlow hhigh
  rw [exact_bandE_eq_sum_div mb hne]
  exact ⟨(le_div_iff₀ hpos).mpr hlow, (div_le_iff₀ hpos).mpr hhigh⟩

end ExactBand

/-! ### BAND and BANDS (R75, R76, R77) -/

section BandCommands

variable {R : Type} {b : Block R}

theorem band_of_mags (E : Env R) (lo hi : Int) (hv : b.cfgValid = true) (hph : b.ph = .mags) :
    b.band E lo hi = b.respond (.num (b.bandE E lo hi)) := by
  simp [Block.band, (cfgErr_eq_false_iff b).mpr hv, hph]

theorem band_outside_mags (E : Env R) (lo hi : Int) (hv : b.cfgValid = true) (hph : b.ph ≠ .mags) :
    b.band E lo hi = b.raise .seqerr := by
  simp [Block.band, (cfgErr_eq_false_iff b).mpr hv, hph]

theorem bands_of_mags (E : Env R) (hv : b.cfgValid = true) (hph : b.ph = .mags) :
    b.bands E = (b.bandsEffect E).respond (.int 0) := by
  simp [Block.bands, (cfgErr_eq_false_iff b).mpr hv, hph]

theorem bands_outside_mags (E : Env R) (hv : b.cfgValid = true) (hph : b.ph ≠ .mags) :
    b.bands E = b.raise .seqerr := by
  simp [Block.bands, (cfgErr_eq_false_iff b).mpr hv, hph]

/-- The mean reads the first half of the spectrum only. -/
theorem bandMean_congr (K : Arith R) (fs l : Nat) {f g : Nat → R} (hfg : ∀ i, i < 2 ^ l / 2 → f i = g i)
    (lo hi : Int) : bandMean K fs (2 ^ l) f lo hi = bandMean K fs (2 ^ l) g lo hi := by
  have hsum : (bandBins fs (2 ^ l) lo hi).foldl (fun acc b => K.add acc (f b)) K.zero =
      (bandBins fs (2 ^ l) lo hi).foldl (fun acc b => K.add acc (g b)) K.zero :=
    List.foldl_ext _ _ _ fun acc i hi => by rw [hfg i (mem_bandBins.mp hi).1]
  rw [bandMean, bandMean, hsum]

/-- With all `N/2` entries of `MB` listed, as in `mb`, the band's energy is the mean over its bins. -/
theorem block_bandE_eq_bandMean (E : Env R) (hlen : b.mb.length = b.n / 2) {mb : Nat → R}
    (hmb : ∀ i x, b.mb[i]? = some x → mb i = x) (lo hi : Int) :
    b.bandE E lo hi = bandMean E.num b.fs b.n mb lo hi := by
  rw [Block.bandE, bandE_eq_bandMean]
  refine bandMean_congr _ _ _ (fun i hi => ?_) lo hi
  have hlisted := List.getElem?_eq_getElem (hi.trans_eq hlen.symm)
  rw [mbAt_of_getElem? E b i _ hlisted, hmb i _ hlisted]

/-- Settles O37: the word, and `band` in `MAGS` and in the other phases. -/
theorem bandAnswersBandEnergy : Obligations.BandAnswersBandEnergy := by
  refine ⟨decodeFor_band, fun s lo hi hv => ⟨fun hph hlen mb hmb => ?_, fun hph => ?_⟩⟩
  · rw [exec_eq_deliver, answer, band_of_mags _ lo hi hv hph, block_bandE_eq_bandMean _ hlen hmb]
    rfl
  · rw [exec_eq_deliver, answer, band_outside_mags _ lo hi hv hph]
    rfl

/-- Settles O38: the word, and `bands` in `MAGS` and in the other phases. -/
theorem bandsWritesResult : Obligations.BandsWritesResult := by
  refine ⟨decodesZ_of_mem (by simp [plainCommands]), fun s hv => ⟨fun hph hlen mb hmb => ?_, fun hph => ?_⟩⟩
  · rw [exec_eq_deliver, answer, bands_of_mags _ hv hph, Block.bandsEffect, Block.bassBand, Block.midBand,
      Block.trebleBand]
    simp only [block_bandE_eq_bandMean _ hlen hmb]
    rfl
  · rw [exec_eq_deliver, answer, bands_outside_mags _ hv hph]
    rfl

end BandCommands

end Sys2Proof.Machine
end

section
/-! SUPPORT. Proofs about the Analyzer: PROC as its six unit commands, what it leaves of the frame it takes, and that
nothing else decides its result (R79 to R81). -/

namespace Sys2Proof.Machine

/-! ### PROC as a command, and its six unit commands (R79) -/

section UnitCommands

variable {R : Type} {s : State}

theorem exec_proc_of_frame (hv : s.cfgValid = true) (hq : s.n ≤ s.q.length) :
    exec .proc s = .next { s with
      toBlock := s.toBlock.procEffect s.env, output := s.output ++ [responseWord .ok 0#64] } := by
  rw [exec_eq_deliver, answer, proc_of_frame _ hv hq]
  rfl

/-- Settles O41: the energies and the draw counter are those of `staleRes`. -/
theorem procWithoutFrameMarksStale : Obligations.ProcWithoutFrameMarksStale := by
  intro s hv hq
  rw [exec_eq_deliver, answer, proc_without_frame _ hv hq]
  exact ⟨_, _, _, _, rfl⟩

/-- A command that answers `OK` without data leaves its block to the rest. -/
theorem execAll_cons_of_ok {i : Instr} {b : Block NumR} (h : answer i s.toBlock = b.respond (.int 0))
    (rest : List Instr) :
    execAll (i :: rest) s =
      execAll rest { s with toBlock := b, output := s.output ++ [responseWord .ok 0#64] } := by
  rw [execAll, exec_eq_deliver, h]
  rfl

/-- The block whose magnitudes PROC takes: the loaded frame, transformed. -/
def Block.transformedFrame (E : Env R) (b : Block R) : Block R := (b.loadedFrame E).fftEffect E

theorem transformedFrame_cfg (E : Env R) (b : Block R) : (b.transformedFrame E).cfg = b.cfg := fftEffect_cfg E _

theorem transformedFrame_ph (E : Env R) (b : Block R) : (b.transformedFrame E).ph = .stages := fftEffect_ph E _

theorem transformedFrame_sc (E : Env R) (b : Block R) : (b.transformedFrame E).sc = b.cfg.l :=
  (fftEffect_sc E _).trans (ofNat_logN _)

theorem transformedFrame_cfgValid (E : Env R) (b : Block R) : (b.transformedFrame E).cfgValid = b.cfgValid :=
  cfgValid_congr (transformedFrame_cfg E b) (fftEffect_par E _)

theorem transformedFrame_env (b : Block NumR) : (b.transformedFrame b.env).env = b.env := fftEffect_env _ _

/-- Each unit command finds the phase, and MAG the stage count, that its predecessor left. -/
theorem execAll_unitCommands (hv : s.cfgValid = true) (hq : s.n ≤ s.q.length) :
    execAll [.xfrm, .win, .ldc, .fft, .mag, .bands] s = .next { s with
      toBlock := s.toBlock.procEffect s.env,
      output := s.output ++ List.replicate 6 (responseWord .ok 0#64) } := by
  have htv : (s.transformedFrame s.env).cfgValid = true := (transformedFrame_cfgValid _ _).trans hv
  have hsc : (s.transformedFrame s.env).sc = (s.transformedFrame s.env).cfg.l := by
    rw [transformedFrame_sc, transformedFrame_cfg]
  have hxfrm : answer .xfrm s.toBlock = s.xfrmEffect.respond (.int 0) := xfrm_of_frame hv hq
  have hwin : answer .win s.xfrmEffect = (s.xfrmEffect.winEffect s.env).respond (.int 0) := win_of_frame _ hv rfl
  have hldc : answer .ldc (s.xfrmEffect.winEffect s.env) = (s.loadedFrame s.env).respond (.int 0) :=
    ldc_of_frame _ hv (.inr rfl)
  have hfft : answer .fft (s.loadedFrame s.env) = (s.transformedFrame s.env).respond (.int 0) :=
    fft_of_loaded _ hv rfl
  have hmag : answer .mag (s.transformedFrame s.env) =
      ((s.transformedFrame s.env).magEffect s.env).respond (.int 0) := by
    rw [answer, transformedFrame_env, magnitudes_of_complete _ htv (transformedFrame_ph _ _) hsc]
  have hbands : answer .bands ((s.transformedFrame s.env).magEffect s.env) =
      (s.procEffect s.env).respond (.int 0) := by
    rw [answer, magEffect_env, transformedFrame_env]
    exact bands_of_mags _ htv rfl
  rw [execAll_cons_of_ok hxfrm, execAll_cons_of_ok hwin, execAll_cons_of_ok hldc, execAll_cons_of_ok hfft,
    execAll_cons_of_ok hmag, execAll_cons_of_ok hbands, execAll]
  simp only [List.append_assoc]
  rfl

/-- Settles O39: PROC and the six unit commands leave the same block. -/
theorem procRunsUnitCommands : Obligations.ProcRunsUnitCommands := fun _ hv hq =>
  ⟨_, _, exec_proc_of_frame hv hq, execAll_unitCommands hv hq, rfl, rfl, rfl, rfl⟩

end UnitCommands

/-! ### What PROC leaves of its frame (R79) -/

section AnalysedBlock

variable {R : Type} {E : Env R} {b : Block R} {x : Nat → R}

theorem tabulate_getElem?_of_lt {α : Type} {n i : Nat} (f : Nat → α) (hi : i < n) :
    (tabulate n f)[i]? = some (f i) := by rw [tabulate_getElem?, if_pos hi]

/-- BREV and all the stages, on what `XB` reads as. -/
theorem fftEffect_xb_eq_stagesUpTo (E : Env R) (b : Block R) :
    (b.fftEffect E).xb = tabulate b.n (stagesUpTo E.num b.logN (b.xbAt E) b.logN) := by
  have hlen : (b.fftEffect E).xb.length = b.n := stagesEffect_xb_length E b b.logN
  have hread : (b.fftEffect E).xb = tabulate b.n ((b.fftEffect E).xbAt E) := hlen ▸ eq_tabulate_getD _ _
  exact hread.trans (tabulate_congr (stagesEffect_xbAt E b b.logN le_rfl))

theorem bandE_congr (K : Arith R) (fs l : Nat) {f g : Nat → R} (hfg : ∀ i, i < 2 ^ l / 2 → f i = g i) (lo hi : Int) :
    bandE K fs l f lo hi = bandE K fs l g lo hi := by
  rw [bandE_eq_bandMean, bandE_eq_bandMean, bandMean_congr K fs l hfg]

/-- What PROC writes and what it leaves alone. -/
theorem procEffect_eq (E : Env R) (b : Block R) :
    b.procEffect E = { b with
      q := b.q.drop b.n, fb := (b.procEffect E).fb, xb := (b.procEffect E).xb, mb := (b.procEffect E).mb,
      res := (b.procEffect E).res, ph := .mags, sc := b.cfg.l } := by
  obtain ⟨xb, htransformed⟩ : ∃ xb, b.transformedFrame E =
      { b.loadedFrame E with xb := xb, ph := .stages, sc := b.cfg.l } := ⟨_, fftEffect_eq_with_xb E _⟩
  have hproc : b.procEffect E = ((b.transformedFrame E).magEffect E).bandsEffect E := rfl
  rw [hproc, htransformed]
  rfl

/-- PROC's energies are those of the magnitudes it leaves (R77). -/
theorem procEffect_res_eq_bandE (E : Env R) (b : Block R) : (b.procEffect E).res =
    { bass := (b.procEffect E).bandE E 20 150, mid := (b.procEffect E).bandE E 150 4000,
      treble := (b.procEffect E).bandE E 4000 20000, new := true } := rfl

/-! The frame that XFRM takes, given as the sequence `x`. -/

variable (hx : ∀ i, i < b.n → b.xfrmEffect.fbAt E i = x i)
include hx

theorem loadedFrame_xbAt_eq_loadedAt {i : Nat} (hi : i < b.n) :
    (b.loadedFrame E).xbAt E i = loadedAt E.num b.logN x i := by
  have hloaded : (b.loadedFrame E).xbAt E i = ⟨(b.xfrmEffect.winEffect E).fbAt E i, E.num.zero⟩ :=
    xbAt_writeXb E _ (b.xfrmEffect.winEffect E) i hi
  have hwindowed : (b.xfrmEffect.winEffect E).fbAt E i = windowAt E.num b.n (b.xfrmEffect.fbAt E) i :=
    fbAt_writeFb E _ b.xfrmEffect i hi
  rw [hloaded, hwindowed, windowAt, hx i hi]
  rfl

theorem procEffect_fb_of_frame : (b.procEffect E).fb = tabulate b.n (windowAt E.num b.n x) := by
  rw [procEffect_fb]
  exact tabulate_congr fun i hi => by rw [windowAt, hx i hi, windowAt]

theorem procEffect_xb_of_frame : (b.procEffect E).xb =
    tabulate b.n (stagesUpTo E.num b.logN (loadedAt E.num b.logN x) b.logN) :=
  (fftEffect_xb_eq_stagesUpTo E (b.loadedFrame E)).trans <| tabulate_congr fun _ hi =>
    stagesUpTo_congr E.num le_rfl (fun _ => loadedFrame_xbAt_eq_loadedAt hx) hi

theorem procEffect_mb_of_frame : (b.procEffect E).mb = tabulate (b.n / 2) (spectrumAt E.num b.logN x) := by
  have hxb : ((b.loadedFrame E).fftEffect E).xb = _ := procEffect_xb_of_frame hx
  rw [procEffect_mb]
  refine tabulate_congr fun i hi => ?_
  rw [magnitudeAt, Block.xbAt, hxb, tabulate_getD _ _ _ _ (by omega)]
  rfl

theorem procEffect_bandE (lo hi : Int) :
    (b.procEffect E).bandE E lo hi = frameBand E.num b.fs b.logN x lo hi := by
  have hcfg := procEffect_cfg E b
  rw [Block.bandE, Block.fs, Block.logN, hcfg]
  refine bandE_congr _ _ _ (fun i hi => ?_) lo hi
  rw [Block.mbAt, procEffect_mb_of_frame hx]
  exact tabulate_getD _ _ _ _ hi

theorem procEffect_res : (b.procEffect E).res =
    { bass := frameBand E.num b.fs b.logN x 20 150, mid := frameBand E.num b.fs b.logN x 150 4000,
      treble := frameBand E.num b.fs b.logN x 4000 20000, new := true } := by
  simp only [procEffect_res_eq_bandE, procEffect_bandE hx]

end AnalysedBlock

/-- Settles O40: the frame is the queue's first `N` samples, and each buffer lists all its entries. -/
theorem procProcessesOneFrame : Obligations.ProcProcessesOneFrame := by
  intro s hv hq
  have hframe : ∀ i, i < s.n → s.xfrmEffect.fbAt s.env i = s.xfrmEffect.fbAt s.env i := fun _ _ => rfl
  refine ⟨(s.procEffect s.env).fb, (s.procEffect s.env).mb, (s.procEffect s.env).xb, (s.procEffect s.env).res.bass,
    (s.procEffect s.env).res.mid, (s.procEffect s.env).res.treble, ?_, ?_, ?_, ?_, fun x hqx => ?_⟩
  · rw [exec_proc_of_frame hv hq, procEffect_eq]
    rfl
  · rw [procEffect_fb_of_frame hframe, tabulate_length]
  · rw [procEffect_xb_of_frame hframe, tabulate_length]
  · rw [procEffect_mb_of_frame hframe, tabulate_length]
  · have hx : ∀ i, i < s.n → s.xfrmEffect.fbAt s.env i = x i := fun i => xfrmEffect_fbAt hq hqx
    rw [procEffect_fb_of_frame hx, procEffect_xb_of_frame hx, procEffect_mb_of_frame hx, procEffect_res hx]
    exact ⟨fun _ => tabulate_getElem?_of_lt _, fun _ => tabulate_getElem?_of_lt _, fun _ => tabulate_getElem?_of_lt _,
      rfl, rfl, rfl⟩

/-- Settles O21: the frame is the first `N` samples, and PROC reads nothing else but the configuration. -/
theorem procHasNoHistory : Obligations.ProcHasNoHistory := by
  intro R E a b hcfg hpar hv ha hb hframe
  have hn : a.n = b.n := n_congr hcfg
  have hx : ∀ i, i < a.n → a.xfrmEffect.fbAt E i = b.xfrmEffect.fbAt E i := fun i _ => by
    have hfb : a.xfrmEffect.fb = b.xfrmEffect.fb := hframe.trans (congrArg (b.q.take ·) hn)
    rw [Block.fbAt, hfb, Block.fbAt]
  rw [proc_of_frame E hv ha, proc_of_frame E ((cfgValid_congr hcfg hpar).symm.trans hv) (hn ▸ hb), respond_block,
    respond_block, procEffect_res hx, procEffect_res fun _ _ => rfl, Block.fs, Block.logN, hcfg]
  exact ⟨rfl, rfl⟩

/-! ### A constant frame over the reals (R81 (b)) -/

section ConstantFrame

variable {l : Nat}

/-- The exact spectrum of a frame is the moduli of the discrete Fourier transform of its windowed samples. -/
theorem spectrumAt_exact_eq_norm_dft {i : Nat} (x : Nat → ℝ) (hi : i < 2 ^ l) :
    spectrumAt exact l x i = ‖dft (2 ^ l) (loadedAt exact l x) i‖ := by
  have hstages := stagesUpTo_eq_refTransform exact_nlTwRed (Nat.zero_add l) (loadedAt exact l x) 0 hi
  rw [Nat.zero_mul, Nat.zero_add, subSequence_zero] at hstages
  rw [← toComplex_refTransform _ hi, ← hstages, Complex.norm_def, Complex.normSq_apply, ← sq, ← sq]
  rfl

theorem sum_toComplex_loadedAt (l : Nat) (x : Nat → ℝ) :
    ∑ t ∈ Finset.range (2 ^ l), toComplex (loadedAt exact l x t) =
      (∑ t ∈ Finset.range (2 ^ l), x t * exact.hann t (2 ^ l) : ℝ) := (Complex.ofReal_sum _ _).symm

/-- Bin 0 is the modulus of the sum of the windowed samples. -/
theorem spectrumAt_exact_zero (l : Nat) (x : Nat → ℝ) :
    spectrumAt exact l x 0 = |∑ t ∈ Finset.range (2 ^ l), x t * exact.hann t (2 ^ l)| := by
  rw [spectrumAt_exact_eq_norm_dft x (Nat.two_pow_pos l), dft_eq_sum_unitRoot]
  simp only [Nat.zero_mul, pow_zero, mul_one]
  rw [sum_toComplex_loadedAt, Complex.norm_real, Real.norm_eq_abs]

/-- Settles O60: a constant frame is summed by the sum of the window. -/
theorem exactConstantFrameBinZero : Obligations.ExactConstantFrameBinZero := by
  intro l c hl
  have hfour : 2 ^ 2 ≤ 2 ^ l := Nat.pow_le_pow_right two_pos hl
  have hwindow := sum_exact_hann (n := 2 ^ l) (by omega)
  have hnonneg : 0 ≤ ((2 : ℝ) ^ l - 1) / 2 := div_nonneg (sub_nonneg.mpr (one_le_pow₀ one_le_two)) zero_le_two
  rw [Nat.cast_pow, Nat.cast_two] at hwindow
  rw [spectrumAt_exact_zero, ← Finset.mul_sum, hwindow, abs_mul, abs_of_nonneg hnonneg, mul_div_assoc]

end ConstantFrame

end Sys2Proof.Machine
end

section
/-! SUPPORT. Proofs about the read-back commands (R83 to R94): each reads one index space of R32, behind the same
checks. -/

namespace Sys2Proof.Machine

/-! ### The shared read (R83, R102) -/

section SharedRead

variable {R : Type} {b : Block R} {sp : Space} {idx : Nat}

/-! `CFGERR` does not stop a read of `sp`: the space has no such check, or the configuration is valid (R83, R98). -/

variable (E : Env R) (hcfg : sp.readableUnconfigured = true ∨ b.cfgValid = true)
include hcfg

theorem readCfgCheck_eq_false : (b.cfgErr && !sp.readableUnconfigured) = false := by
  obtain hsp | hv := hcfg
  · simp [hsp]
  · simp [(cfgErr_eq_false_iff b).mpr hv]

theorem readBack_of_illegal_index (hidx : b.indexLegal sp idx = false) :
    b.readBack E sp idx = b.raise .operr := by
  rw [Block.readBack, readCfgCheck_eq_false hcfg, hidx, Bool.not_false, guarded_op]

theorem readBack_of_invalid_space (hidx : b.indexLegal sp idx = true) (hph : sp.validIn b.ph = false) :
    b.readBack E sp idx = b.raise .seqerr := by
  rw [Block.readBack, readCfgCheck_eq_false hcfg, hidx, hph, Bool.not_true, Bool.not_false, guarded_seq]

theorem readBack_of_legal (hidx : b.indexLegal sp idx = true) (hph : sp.validIn b.ph = true) :
    b.readBack E sp idx = b.respond (b.entry E sp idx) := by
  rw [Block.readBack, readCfgCheck_eq_false hcfg, hidx, hph, Bool.not_true, guarded_ok]

end SharedRead

/-! ### The read-back commands, by the space they read (R32) -/

section ReadCommands

/-- The command that reads entry `idx` of a space; RDSTAT and RDQLEN have no index. -/
def readCommand (sp : Space) (idx : Nat) : Instr :=
  match sp with
  | .cfg => .rdcfg idx
  | .status => .rdstat
  | .qlen => .rdqlen
  | .res => .rdres idx
  | .fb => .rdfb idx
  | .xbRe => .rdxr idx
  | .xbIm => .rdxi idx
  | .mb => .rdmb idx
  | .wrom => .rdwin idx
  | .tromRe => .rdtwr idx
  | .tromIm => .rdtwi idx

theorem answer_readCommand (sp : Space) (idx : Nat) (b : Block NumR) :
    answer (readCommand sp idx) b = b.readBack b.env sp idx := by
  cases sp <;> rfl

theorem needsConfiguration_readCommand {sp : Space} (hsp : sp.readableUnconfigured = false) (idx : Nat) :
    needsConfiguration (readCommand sp idx) := by
  intro s hcfg
  rw [exec_eq_deliver, answer_readCommand, Block.readBack, hcfg, hsp, Bool.not_false, Bool.and_self, guarded_cfg]
  rfl

variable {s : State} {idx : Nat} (sp : Space) (hcfg : sp.readableUnconfigured = true ∨ s.cfgValid = true)
include hcfg

theorem exec_read_of_illegal_index (hidx : s.indexLegal sp idx = false) : exec (readCommand sp idx) s = .next { s with
      err := { s.err with op := true }, output := s.output ++ [responseWord .operr 0#64] } := by
  rw [exec_eq_deliver, answer_readCommand, readBack_of_illegal_index _ hcfg hidx]
  rfl

theorem exec_read_of_invalid_space (hidx : s.indexLegal sp idx = true) (hph : sp.validIn s.ph = false) :
    exec (readCommand sp idx) s = .next { s with
      err := { s.err with seq := true }, output := s.output ++ [responseWord .seqerr 0#64] } := by
  rw [exec_eq_deliver, answer_readCommand, readBack_of_invalid_space _ hcfg hidx hph]
  rfl

/-- A read that passes its checks answers the entry and changes nothing. -/
theorem exec_read_of_legal (hidx : s.indexLegal sp idx = true) (hph : sp.validIn s.ph = true) {d : Data}
    (hd : (s.entry s.env sp idx).bits s.par.w = d) :
    exec (readCommand sp idx) s = .next { s with output := s.output ++ [responseWord .ok d] } := by
  rw [exec_eq_deliver, answer_readCommand, readBack_of_legal _ hcfg hidx hph, deliver_eq, respond_word, hd]
  rfl

end ReadCommands

/-! ### The registers (R84 to R87) -/

section Registers

/-- Settles O43: RDCFG skips the `CFGERR` check, and its space is always valid. -/
theorem rdcfgReadsConfiguration : Obligations.RdcfgReadsConfiguration := by
  refine ⟨decodesR_of_mem (by simp [indexCommands]), fun s idx => ⟨?_, ?_, ?_, fun hidx => ?_⟩⟩
  · exact exec_read_of_legal .cfg (.inl rfl) rfl rfl (BitVec.ofNat_toNat 64 s.cfg.fs)
  · exact exec_read_of_legal .cfg (.inl rfl) rfl rfl rfl
  · exact exec_read_of_legal .cfg (.inl rfl) rfl rfl (BitVec.ofNat_toNat 64 s.cfg.l)
  · exact exec_read_of_illegal_index .cfg (.inl rfl) (decide_eq_false (not_le.mpr hidx))

variable {R : Type}

theorem statusBit_getLsbD (v : Bool) {k j : Nat} (hj : j < 64) :
    (statusBit v k).getLsbD j = (decide (j = k) && v) := by
  rw [statusBit, BitVec.getLsbD_shiftLeft]
  obtain hlt | rfl | hgt := lt_trichotomy j k
  · simp [hlt, hlt.ne]
  · simp [hj]
  · simp [BitVec.getLsbD_setWidth, BitVec.getLsbD_ofBool, hgt.ne', Nat.sub_eq_zero_iff_le, hgt]

/-- STATUS, bit by bit (R26). -/
theorem status_getLsbD (b : Block R) {j : Nat} (hj : j < 64) : b.status.getLsbD j =
    (b.ph.code.getLsbD j || (!decide (j < 3) && b.sc.getLsbD (j - 3)) || (decide (j = 8) && b.res.new) ||
      (decide (j = 9) && b.rdy) || (decide (j = 10) && b.cfgErr) || (decide (j = 11) && b.err.ill) ||
      (decide (j = 12) && b.err.op) || (decide (j = 13) && b.err.seq) || (decide (j = 14) && b.err.qovf)) := by
  have hcode : (b.ph.code.setWidth 64).getLsbD j = b.ph.code.getLsbD j := by
    rw [BitVec.getLsbD_setWidth, decide_eq_true hj, Bool.true_and]
  have hsc : (b.sc.setWidth 64 <<< 3).getLsbD j = (!decide (j < 3) && b.sc.getLsbD (j - 3)) := by
    have hshift : decide (j - 3 < 64) = true := decide_eq_true (by omega)
    rw [BitVec.getLsbD_shiftLeft, BitVec.getLsbD_setWidth, decide_eq_true hj, hshift, Bool.true_and, Bool.true_and]
  simp only [Block.status, BitVec.getLsbD_or, hcode, hsc, statusBit_getLsbD _ hj]

/-- Below bit 8 stand PH and SC. -/
theorem status_getLsbD_of_lt (b : Block R) {j : Nat} (hj : j < 8) :
    b.status.getLsbD j = (b.ph.code.getLsbD j || (!decide (j < 3) && b.sc.getLsbD (j - 3))) := by
  have hflags : j ≠ 8 ∧ j ≠ 9 ∧ j ≠ 10 ∧ j ≠ 11 ∧ j ≠ 12 ∧ j ≠ 13 ∧ j ≠ 14 := by omega
  simp [status_getLsbD b (show j < 64 by omega), hflags]

/-- From bit 8 stand the flags. -/
theorem status_getLsbD_of_ge (b : Block R) {j : Nat} (hj : 8 ≤ j) (hlt : j < 64) : b.status.getLsbD j =
    ((decide (j = 8) && b.res.new) || (decide (j = 9) && b.rdy) || (decide (j = 10) && b.cfgErr) ||
      (decide (j = 11) && b.err.ill) || (decide (j = 12) && b.err.op) || (decide (j = 13) && b.err.seq) ||
      (decide (j = 14) && b.err.qovf)) := by
  have hcode : b.ph.code.getLsbD j = false := BitVec.getLsbD_of_ge _ _ (by omega)
  have hsc : b.sc.getLsbD (j - 3) = false := BitVec.getLsbD_of_ge _ _ (by omega)
  simp only [status_getLsbD b hlt, hcode, hsc, Bool.and_false, Bool.false_or]

theorem status_phase (b : Block R) : b.status.extractLsb' 0 3 = b.ph.code := by
  refine BitVec.eq_of_getLsbD_eq fun j hj => ?_
  simp [status_getLsbD_of_lt b (show j < 8 by omega), hj]

theorem status_stageCount (b : Block R) : b.status.extractLsb' 3 5 = b.sc := by
  refine BitVec.eq_of_getLsbD_eq fun j hj => ?_
  simp [status_getLsbD_of_lt b (show 3 + j < 8 by omega), hj]

theorem status_reserved (b : Block R) : b.status.extractLsb' 15 49 = 0#49 := by
  refine BitVec.eq_of_getLsbD_eq fun j hj => ?_
  have hflags : 15 + j ≠ 8 ∧ 15 + j ≠ 9 ∧ 15 + j ≠ 10 ∧ 15 + j ≠ 11 ∧ 15 + j ≠ 12 ∧ 15 + j ≠ 13 ∧ 15 + j ≠ 14 := by
    omega
  simp [status_getLsbD_of_ge b (show 8 ≤ 15 + j by omega) (show 15 + j < 64 by omega), hflags]

/-- Settles O44: the answer is the view STATUS, field by field. -/
theorem rdstatReadsStatusFields : Obligations.RdstatReadsStatusFields := by
  refine ⟨decodesZ_of_mem (by simp [plainCommands]), fun s => ⟨s.status, ?_, ?_, status_stageCount _, ?_⟩⟩
  · refine exec_read_of_legal (idx := 0) .status (.inl rfl) rfl rfl ?_
    exact (BitVec.ofNat_toNat 64 s.status).trans (BitVec.setWidth_eq _)
  · rw [status_phase]
    cases s.ph <;> rfl
  · simp only [status_getLsbD_of_ge, Nat.reduceLeDiff, Nat.reduceLT]
    simp [status_reserved, Block.rdy, Block.frameQueued, Block.cfgErr]

/-- Settles O45: `min` is the length below the limit, and the limit from there on. -/
theorem rdqlenReadsQueueLength : Obligations.RdqlenReadsQueueLength := by
  refine ⟨decodesZ_of_mem (by simp [plainCommands]), needsConfiguration_readCommand (sp := .qlen) rfl 0,
    fun s hv => ⟨_, exec_read_of_legal (idx := 0) .qlen (.inr hv) rfl rfl rfl, fun hlen => ?_, fun hlen => ?_⟩⟩
  · have hmin : min s.q.length (2 ^ 64 - 1) = s.q.length := min_eq_left (by omega)
    rw [Block.entry, datum_int_bits, hmin, BitVec.toNat_ofNat, Nat.mod_eq_of_lt hlen]
  · have hmin : min s.q.length (2 ^ 64 - 1) = 2 ^ 64 - 1 := min_eq_right (by omega)
    rw [Block.entry, datum_int_bits, hmin]
    rfl

/-- A flag as data (R46). -/
theorem ofNat_toNat_bool (v : Bool) : BitVec.ofNat 64 v.toNat = if v then 1#64 else 0#64 := by
  cases v <;> rfl

/-- Settles O46: the space `RES` is always valid. -/
theorem rdresReadsResult : Obligations.RdresReadsResult := by
  refine ⟨decodesR_of_mem (by simp [indexCommands]), needsConfiguration_readCommand (sp := .res) rfl,
    fun s idx hv => ⟨?_, ?_, ?_, ?_, fun hidx => ?_⟩⟩
  · exact exec_read_of_legal .res (.inr hv) rfl rfl rfl
  · exact exec_read_of_legal .res (.inr hv) rfl rfl rfl
  · exact exec_read_of_legal .res (.inr hv) rfl rfl rfl
  · exact exec_read_of_legal .res (.inr hv) rfl rfl (ofNat_toNat_bool _)
  · exact exec_read_of_illegal_index .res (.inr hv) (decide_eq_false (not_le.mpr hidx))

end Registers

/-! ### The buffers (R88 to R91) -/

section Buffers

/-- A sample is read as its encoding (R46). -/
theorem num_bits_of_eq {W : Nat} {x y : NumR} (h : x = y) :
    (Datum.num x).bits W = ((Config.num W).enc y).setWidth 64 := h ▸ rfl

/-- Settles O47: `FB` is valid in every phase but `IDLE`. -/
theorem rdfbReadsFrameEntry : Obligations.RdfbReadsFrameEntry := by
  refine ⟨decodesR_of_mem (by simp [indexCommands]), needsConfiguration_readCommand (sp := .fb) rfl,
    fun s idx hv => ⟨fun hidx => ?_, fun hidx hph => ?_, fun hidx hph x hx => ?_⟩⟩
  · exact exec_read_of_illegal_index .fb (.inr hv) (decide_eq_false (not_lt.mpr hidx))
  · exact exec_read_of_invalid_space .fb (.inr hv) (decide_eq_true hidx) (by simp [Space.validIn, hph])
  · exact exec_read_of_legal .fb (.inr hv) (decide_eq_true hidx) (decide_eq_true hph)
      (num_bits_of_eq (fbAt_of_getElem? _ _ _ _ hx))

theorem xb_validIn_iff {ph : Phase} :
    Space.validIn .xbRe ph = true ↔ ph = .loaded ∨ ph = .stages ∨ ph = .mags := by
  simp [Space.validIn, or_assoc]

/-- Settles O48: both parts of `XB` have the same legal indices and valid phases. -/
theorem rdxReadsSpectrumEntry : Obligations.RdxReadsSpectrumEntry := by
  refine ⟨decodesR_of_mem (by simp [indexCommands]), decodesR_of_mem (by simp [indexCommands]),
    fun idx => ⟨?_, ?_⟩,
    fun s idx hv => ⟨fun hidx => ?_, fun hidx hloaded hstages hmags => ?_, fun hidx hph z hz => ?_⟩⟩
  · exact needsConfiguration_readCommand (sp := .xbRe) rfl idx
  · exact needsConfiguration_readCommand (sp := .xbIm) rfl idx
  · have hbad : s.indexLegal .xbRe idx = false := decide_eq_false (not_lt.mpr hidx)
    rintro _ (rfl | rfl)
    · exact exec_read_of_illegal_index .xbRe (.inr hv) hbad
    · exact exec_read_of_illegal_index .xbIm (.inr hv) hbad
  · have hinvalid : Space.validIn .xbRe s.ph = false := by simp [Space.validIn, hloaded, hstages, hmags]
    rintro _ (rfl | rfl)
    · exact exec_read_of_invalid_space .xbRe (.inr hv) (decide_eq_true hidx) hinvalid
    · exact exec_read_of_invalid_space .xbIm (.inr hv) (decide_eq_true hidx) hinvalid
  · have hvalid := xb_validIn_iff.mpr hph
    have hentry := xbAt_of_getElem? s.env s.toBlock idx z hz
    exact ⟨exec_read_of_legal .xbRe (.inr hv) (decide_eq_true hidx) hvalid (num_bits_of_eq (congrArg Cplx.re hentry)),
      exec_read_of_legal .xbIm (.inr hv) (decide_eq_true hidx) hvalid (num_bits_of_eq (congrArg Cplx.im hentry))⟩

/-- Settles O49: `MB` is valid in `MAGS` alone. -/
theorem rdmbReadsMagnitudeEntry : Obligations.RdmbReadsMagnitudeEntry := by
  refine ⟨decodesR_of_mem (by simp [indexCommands]), needsConfiguration_readCommand (sp := .mb) rfl,
    fun s idx hv => ⟨fun hidx => ?_, fun hidx hph => ?_, fun hidx hph x hx => ?_⟩⟩
  · exact exec_read_of_illegal_index .mb (.inr hv) (decide_eq_false (not_lt.mpr hidx))
  · exact exec_read_of_invalid_space .mb (.inr hv) (decide_eq_true hidx) (decide_eq_false hph)
  · exact exec_read_of_legal .mb (.inr hv) (decide_eq_true hidx) (decide_eq_true hph)
      (num_bits_of_eq (mbAt_of_getElem? _ _ _ _ hx))

end Buffers

/-! ### The ROMs (R92 to R94) -/

section Roms

/-- Settles O50: a ROM is valid in every phase. -/
theorem romReadsInEveryPhase : Obligations.RomReadsInEveryPhase := by
  refine ⟨decodesR_of_mem (by simp [indexCommands]), decodesR_of_mem (by simp [indexCommands]),
    decodesR_of_mem (by simp [indexCommands]), fun idx => ⟨?_, ?_, ?_⟩,
    fun s idx hv => ⟨fun hidx => ?_, fun hidx => ?_, fun hidx => ⟨?_, ?_⟩, fun hidx => ?_⟩⟩
  · exact needsConfiguration_readCommand (sp := .wrom) rfl idx
  · exact needsConfiguration_readCommand (sp := .tromRe) rfl idx
  · exact needsConfiguration_readCommand (sp := .tromIm) rfl idx
  · exact exec_read_of_legal .wrom (.inr hv) (decide_eq_true hidx) rfl rfl
  · exact exec_read_of_illegal_index .wrom (.inr hv) (decide_eq_false (not_lt.mpr hidx))
  · exact exec_read_of_legal .tromRe (.inr hv) (decide_eq_true hidx) rfl rfl
  · exact exec_read_of_legal .tromIm (.inr hv) (decide_eq_true hidx) rfl rfl
  · have hbad : s.indexLegal .tromRe idx = false := decide_eq_false (not_lt.mpr hidx)
    rintro _ (rfl | rfl)
    · exact exec_read_of_illegal_index .tromRe (.inr hv) hbad
    · exact exec_read_of_illegal_index .tromIm (.inr hv) hbad

end Roms

end Sys2Proof.Machine
end

section
/-! SUPPORT. Proofs about exceptions: the status of each answer, what a raise leaves, an invalid configuration, and what
a clear sticky flag says of a run (R95 to R102). -/

namespace Sys2Proof.Machine

/-! ### The flags record the status of each answer (R95) -/

section RecordedStatus

theorem answer_status (i : Instr) (b : Block NumR) : (answer i b).reply.status = tableStatus i b := by
  rw [answer_eq_answerWith]
  cases tableStatus i b with
  | ok => exact okAnswer_status i b
  | notready | illcmd | operr | seqerr | cfgerr | qfull => rfl

theorem wordAnswer_err (w : CommandWord) (b : Block NumR) :
    (wordAnswer w b).block.err = b.err.record (wordAnswer w b).reply.status := by
  unfold wordAnswer
  cases decodeFor b.par.w w with
  | ok i => rw [answer_err, answer_status]
  | error => rfl

/-- The status that a code stands for (R46); the codes above 6 are never produced. -/
def Status.ofCode (code : BitVec 4) : Status :=
  [.ok, .notready, .illcmd, .operr, .seqerr, .cfgerr, .qfull].getD code.toNat .ok

@[simp] theorem ofCode_code (c : Status) : Status.ofCode c.code = c := by
  cases c <;> rfl

/-- The status that a response word bears. -/
def answeredStatus (r : ResponseWord) : Status := .ofCode (codeField r)

theorem answeredStatus_responseWord (c : Status) (d : Data) : answeredStatus (responseWord c d) = c := by
  rw [answeredStatus, codeField_responseWord, ofCode_code]

end RecordedStatus

/-! ### A run records the statuses of its answers (R95) -/

section RecordedRun

/-- `ERR` after recording the statuses of these answers, one after another. -/
def Err.recordAll (answers : List ResponseWord) (e : Err) : Err :=
  answers.foldl (fun e r => e.record (answeredStatus r)) e

/-- From `s` to `t` words go out, and the sticky flags record their statuses. -/
def Recorded (s t : State) : Prop :=
  ∃ answers : List ResponseWord, t.output = s.output ++ answers ∧ t.err = s.err.recordAll answers

variable {s t u : State}

theorem Recorded.refl (s : State) : Recorded s s := ⟨[], (List.append_nil _).symm, rfl⟩

theorem Recorded.trans (hst : Recorded s t) (htu : Recorded t u) : Recorded s u := by
  obtain ⟨answers, hout, herr⟩ := hst
  obtain ⟨answers', hout', herr'⟩ := htu
  refine ⟨answers ++ answers', ?_, ?_⟩
  · rw [hout', hout, List.append_assoc]
  · rw [herr', herr]
    exact List.foldl_append.symm

/-- The host's next event is gone after a step. -/
theorem step_input (h : step s = .next t) : t.input = s.input.tail := by
  obtain ⟨hin, rfl⟩ | ⟨fs, l, rest, hin, rfl⟩ | ⟨w, rest, e, hin, -, rfl⟩ | ⟨w, rest, i, hin, -, hexec⟩ := step_cases h
  · rw [hin, List.tail_nil]
  · rw [hin, List.tail_cons]
  · rw [hin, List.tail_cons]
  · obtain ⟨-, hkept, -⟩ := exec_eq_next hexec
    rw [hkept, hin, List.tail_cons]

theorem noReset_take_succ (k : Nat) (events : List HostEvent) :
    noReset (events.take (k + 1)) = (noReset (events.take 1) && noReset (events.tail.take k)) := by
  cases events <;> simp [noReset]

/-- A step that is no reset is idle or the answer to one word. -/
theorem recorded_step (h : step s = .next t) (hnoReset : noReset (s.input.take 1) = true) : Recorded s t := by
  cases hin : s.input with
  | nil =>
    obtain rfl := Host.Outcome.next.inj ((step_idle hin).symm.trans h)
    exact .refl s
  | cons event rest =>
    cases event with
    | reset fs l => exact absurd (congrArg List.head? hin) (head?_ne_reset hnoReset fs l)
    | command w =>
      obtain rfl := Host.Outcome.next.inj ((step_command hin).symm.trans h)
      refine ⟨[(wordAnswer w s.toBlock).reply.word s.par.w], rfl, ?_⟩
      exact (wordAnswer_err w s.toBlock).trans (congrArg s.err.record (answeredStatus_responseWord _ _).symm)

theorem exists_step_of_run_succ {M : Host.Core} {s t : M.State} {k : Nat} (h : M.run (k + 1) s = .next t) :
    ∃ u, M.step s = .next u ∧ M.run k u = .next t := by
  rw [Host.Core.run] at h
  cases hstep : M.step s with
  | next u => exact ⟨u, rfl, by rwa [hstep] at h⟩
  | fault => simp [hstep] at h
  | refused => simp [hstep] at h

theorem recorded_run {k : Nat} (h : Host.Core.run Sys2Proof.core k s = .next t)
    (hnoReset : noReset (s.input.take k) = true) : Recorded s t := by
  induction k generalizing s with
  | zero =>
    obtain rfl := Host.Outcome.next.inj h
    exact .refl s
  | succ k ih =>
    obtain ⟨u, hstep, hrun⟩ := exists_step_of_run_succ h
    rw [noReset_take_succ, Bool.and_eq_true] at hnoReset
    obtain ⟨hfirst, hrest⟩ := hnoReset
    rw [← step_input hstep] at hrest
    exact (recorded_step hstep hfirst).trans (ih hrun hrest)

end RecordedRun

/-! ### What a clear flag proves (R95) -/

section ClearFlag

/-- The sticky flag of a status is set (R46, R95); three statuses have none. -/
def Err.isSet (c : Status) (e : Err) : Bool :=
  match c with
  | .illcmd => e.ill
  | .operr => e.op
  | .seqerr => e.seq
  | .qfull => e.qovf
  | .ok | .notready | .cfgerr => false

variable {c : Status} {e : Err}

theorem isSet_record (h : e.isSet c = true) (d : Status) : (e.record d).isSet c = true := by
  obtain ⟨hill, hop, hseq, hqovf⟩ := record_keeps_set e d
  cases c with
  | illcmd => exact hill h
  | operr => exact hop h
  | seqerr => exact hseq h
  | qfull => exact hqovf h
  | ok | notready | cfgerr => cases h

theorem isSet_recordAll (h : e.isSet c = true) (answers : List ResponseWord) :
    (e.recordAll answers).isSet c = true := by
  induction answers generalizing e with
  | nil => exact h
  | cons r rest ih => exact ih (isSet_record h _)

/-- Once recorded, a status with a flag shows in the flags from there on. -/
theorem isSet_recordAll_of_mem (hflag : ∀ e : Err, (e.record c).isSet c = true) {answers : List ResponseWord}
    {r : ResponseWord} (hr : r ∈ answers) (hc : answeredStatus r = c) : (e.recordAll answers).isSet c = true := by
  obtain ⟨before, after, rfl⟩ := List.append_of_mem hr
  rw [Err.recordAll, List.foldl_append, List.foldl_cons, hc]
  exact isSet_recordAll (hflag _) after

theorem codeField_ne_of_clear (hflag : ∀ e : Err, (e.record c).isSet c = true) {answers : List ResponseWord}
    (hclear : (e.recordAll answers).isSet c = false) : ∀ r ∈ answers, codeField r ≠ c.code := by
  intro r hr hcode
  have hc : answeredStatus r = c := by rw [answeredStatus, hcode, ofCode_code]
  have hset := isSet_recordAll_of_mem (e := e) hflag hr hc
  rw [hclear] at hset
  cases hset

/-- Settles O14: by induction the run records the statuses of its answers, and no recording clears a flag. -/
theorem clearFlagProvesNoErrorInRun : Obligations.ClearFlagProvesNoErrorInRun := by
  intro k s t hrun hnoReset
  obtain ⟨answers, hout, herr⟩ := recorded_run hrun hnoReset
  rw [herr]
  refine ⟨answers, hout, ?_, ?_, ?_, ?_⟩
  · exact codeField_ne_of_clear (c := .illcmd) fun _ => rfl
  · exact codeField_ne_of_clear (c := .operr) fun _ => rfl
  · exact codeField_ne_of_clear (c := .seqerr) fun _ => rfl
  · exact codeField_ne_of_clear (c := .qfull) fun _ => rfl

end ClearFlag

/-! ### Illegal words (R97) -/

/-- A word that spells no row does not decode. -/
theorem decode_error_of_spells_none {W : Nat} {w : CommandWord} (h : ∀ r ∈ opcodeTableFor W, r.spells w = false) :
    ∃ e, decodeFor W w = .error e := by
  have hagree := decoderAgreesWithOpcodeTable W w
  cases hd : decodeFor W w with
  | error e => exact ⟨e, rfl⟩
  | ok i =>
    rw [hd] at hagree
    obtain ⟨⟨r, hr, hspells⟩, -⟩ := hagree
    rw [h r hr] at hspells
    cases hspells

/-- Settles O2: the word does not decode, so the step raises before any other check. -/
theorem illegalWordRaisesIllcmd : Obligations.IllegalWordRaisesIllcmd := by
  intro s w rest hin hnone
  obtain ⟨e, hd⟩ := decode_error_of_spells_none hnone
  rw [step_command hin, wordAnswer, hd]
  rfl

/-! ### The status and what a raise leaves (R95, R98, R102) -/

section Raises

/-- Settles O9: every command is one answer, with the status of the tables. -/
theorem statusFollowsPriority : Obligations.StatusFollowsPriority := by
  intro i s
  obtain ⟨d, hword, -⟩ := answer_word s.par.w i s.toBlock
  exact ⟨_, d, exec_eq_deliver i s, congrArg (fun r => s.output ++ [r]) hword⟩

variable {i : Instr} {s : State}

/-- Every status but `OK` and `NOTREADY` is raised. -/
theorem exec_of_raised {c : Status} (hstatus : tableStatus i s.toBlock = c) (hok : c ≠ .ok)
    (hready : c ≠ .notready) : exec i s = s.deliver (s.toBlock.raise c) := by
  rw [exec_eq_deliver, answer_eq_answerWith, hstatus]
  cases c with
  | ok => exact absurd rfl hok
  | notready => exact absurd rfl hready
  | illcmd | operr | seqerr | cfgerr | qfull => rfl

/-- Settles O11: each of the four statuses is raised. -/
theorem raiseIsPrecise : Obligations.RaiseIsPrecise := by
  intro i s
  refine ⟨?_, ?_, ?_, ?_⟩ <;> exact (exec_of_raised · nofun nofun)

theorem skipsCfg_eq_false (hstat : i ≠ .rdstat) (hcfg : ∀ idx, i ≠ .rdcfg idx) : tableSkipsCfg i = false := by
  cases i with
  | rdstat => exact absurd rfl hstat
  | rdcfg idx => exact absurd rfl (hcfg idx)
  | _ => rfl

theorem status_of_unconfigured {b : Block NumR} (herr : b.cfgErr = true) (hskips : tableSkipsCfg i = false) :
    tableStatus i b = .cfgerr := by
  rw [tableStatus, herr, hskips]
  rfl

theorem change_cfgErr {b b' : Block NumR} (h : b.Change b') : b'.cfgErr = b.cfgErr := by
  obtain ⟨hcfg, hpar⟩ := change_cfg_par h
  exact congrArg Bool.not (cfgValid_congr hcfg hpar)

/-- Settles O12: validity is R7's, only a reset writes what it depends on, and a command checks `CFGERR`
before all else (R102). -/
theorem invalidConfigurationDoesNothing : Obligations.InvalidConfigurationDoesNothing := by
  refine fun s => ⟨?_, fun t hstep hnoReset => ?_, fun i herr hstat hcfg => ?_⟩
  · exact (cfgErr_eq_false_iff _).trans (cfgValid_iff _)
  · obtain ⟨fs, l, hhead, -⟩ | hchange := step_reset_or_change hstep
    · exact absurd hhead (head?_ne_reset hnoReset fs l)
    · exact change_cfgErr hchange
  · obtain ⟨-, -, hraise, -⟩ := raiseIsPrecise i s
    exact hraise (status_of_unconfigured herr (skipsCfg_eq_false hstat hcfg))

end Raises

end Sys2Proof.Machine
end
